-- ==== Sys2Proof/Word.lean ====
section
/-! DEFINITION. Word.lean: the byte, the 6-bit register address, and bit selection (00_scope R11). -/

namespace Sys2Proof

/-- A byte: "8 bits, an unsigned integer 0..255" (00_scope R11). -/
abbrev Byte := BitVec 8

/-- A register address: "a 6-bit identifier" (20_memory R50, 30_encoding R80). -/
abbrev Addr := BitVec 6

/-- `bit(v, i)` of 00_scope R11: bit 7 is the most significant, bit 0 the least. -/
def bit (v : Byte) (i : Nat) : Bool := v.getLsbD i

end Sys2Proof
end

