-- ==== Sys2Proof/Config.lean ====
section
/-! DEFINITION. Config.lean: the configuration record `Cfg` of 00_scope R9 with the types its fields use, the chip
answers the block does not control (10_state R40), and the values no source suggests, left uninterpreted. -/

namespace Sys2Proof

/-- The eight chip states of the status byte, in the order of 30_encoding R84. -/
inductive ChipState where
  | idle | rx | tx | fstxon | calibrate | settling | rxOverflow | txUnderflow
  deriving DecidableEq, Repr, Inhabited

/-- The logical commands (30_encoding R93). `unknown` "is the result-only sentinel for decode failures". -/
inductive Command where
  | join | leave | low | medium | high | timer1 | timer2 | timer3 | unknown
  deriving DecidableEq, Repr, Inhabited

/-- A "fixed 6-byte command signature" (10_state R27). -/
structure Sig6 where
  b0 : Byte
  b1 : Byte
  b2 : Byte
  b3 : Byte
  b4 : Byte
  b5 : Byte
  deriving DecidableEq, Repr, Inhabited

/-- The signature table `SIG[0..7][0..5]` (10_state R27): one row for each command but UNKNOWN, which "has no
signature". -/
structure SigTable where
  join   : Sig6
  leave  : Sig6
  low    : Sig6
  medium : Sig6
  high   : Sig6
  timer1 : Sig6
  timer2 : Sig6
  timer3 : Sig6
  deriving DecidableEq, Repr, Inhabited

/-- The rows of `SIG` that are OPEN (00_scope R9, P7): all but LOW's, which the source gives. -/
structure OpenSigs where
  join   : Sig6
  leave  : Sig6
  medium : Sig6
  high   : Sig6
  timer1 : Sig6
  timer2 : Sig6
  timer3 : Sig6
  deriving DecidableEq, Repr, Inhabited

/-- `STATE_TABLE`: the chip state of each 3-bit code (30_encoding R85), code 0 first. -/
structure StateTable where
  s0 : ChipState
  s1 : ChipState
  s2 : ChipState
  s3 : ChipState
  s4 : ChipState
  s5 : ChipState
  s6 : ChipState
  s7 : ChipState
  deriving DecidableEq, Repr, Inhabited

/-- A register write in one of the host's lists (45_host R231, R235, R238). -/
inductive ProfileWrite where
  /-- `(a, v)`. -/
  | reg (addr v : Byte)
  /-- The frame's byte length, to the packet-length register. -/
  | packetLength
  /-- The first and the second byte of `SYNC_WORD`, each to its register. -/
  | sync0
  | sync1
  deriving DecidableEq, Repr, Inhabited

/-- The configuration record `Cfg` of 00_scope R9: every field the table there calls OPEN. The fields it calls fixed
are the constants of Machine/Profile.lean. -/
structure Cfg where
  /-- `SEL0`, 0..7 by its type (R9, R10, P1). -/
  sel0 : Fin 8
  /-- `SIG[c]`, `c` other than LOW (P7). -/
  openSigs : OpenSigs
  preamble : List Byte
  syncMarker : List Byte
  terminator : Byte
  padByte : Byte
  padCount : Nat
  stateTable : StateTable
  aFifo : Addr
  aPatable : Addr
  aFreqest : Addr
  aMarcstate : Addr
  aRxbytes : Addr
  aTxbytes : Addr
  aWortime1 : Addr
  aWortime0 : Addr
  sReset : Addr
  sCal : Addr
  sRx : Addr
  sTx : Addr
  sIdle : Addr
  sPwd : Addr
  sFlushRx : Addr
  sFlushTx : Addr
  marcMask : Byte
  marcIdle : Byte
  marcRx : Byte
  marcRxovf : Byte
  marcTxunf : Byte
  fifoSize : Nat
  txunfBit : Byte
  occMask : Byte
  /-- `RST_SEQ`: pairs (level, delay in microseconds); level true is SELECT (41_driver R130). -/
  rstSeq : List (Bool × Nat)
  /-- `T_SETTLE`, in microseconds. -/
  tSettle : Nat
  /-- `POLL_LIMIT`; `none` is infinity, which "reproduces the source". -/
  pollLimit : Option Nat
  wireMax : Nat
  payloadMax : Nat
  burstMax : Nat
  /-- The packet-length register and the registers of the two sync-word bytes, which 10_state R35 names by function; their
  addresses are part of the lists below (P18). -/
  aPktlen : Addr
  aSync0 : Addr
  aSync1 : Addr
  /-- `TX_PROFILE` part 1, the power table bytes for transmit, and `TX_PROFILE` part 2 (45_host R231; P18). -/
  txProfile1 : List ProfileWrite
  txPatable : List Byte
  txProfile2 : List ProfileWrite
  /-- `RX_PROFILE`, the power table bytes for receive, `RX_REARM`, `SYNC_WORD` (45_host R235, R238; P18). -/
  rxProfile : List ProfileWrite
  rxPatable : List Byte
  rxRearm : List ProfileWrite
  syncWord0 : Byte
  syncWord1 : Byte
  deriving DecidableEq, Repr, Inhabited

/-- What the chip and the transport show the block at one sampling moment (10_state R37, R40; 40_bus R112, R113):
the ready line, whether the exchange fails here, and the byte that arrives while one is sent. Awaiting ready, the
block looks at `rdy` alone; exchanging, at `fail` and `data`. -/
structure BusSample where
  rdy  : Bool
  fail : Bool
  data : Byte
  deriving DecidableEq, Repr, Inhabited

/-- FREE VALUE (notes/assumptions/1.md): the chip's answer number n, when none was given beforehand in the state's
`inbox`. 10_state R40: "The model must take them from an oracle under no law". Safe: nothing is known of it. -/
opaque Config.freeSample : Nat → BusSample

/-! FREE VALUES (notes/assumptions/3.md): the fields of `Cfg` for which 92_eei_decisions part 2 gives "No
suggestion", in the one configuration `State.reset` is built from. Safe: nothing is known of them. -/

opaque Config.openPreamble : List Byte
opaque Config.openSyncMarker : List Byte
opaque Config.openTerminator : Byte
opaque Config.openPadByte : Byte
opaque Config.openPadCount : Nat
/-- The signatures of the seven commands the source gives none for (P7). -/
opaque Config.openSig : Command → Sig6
opaque Config.openPktlen : Addr
opaque Config.openSync0 : Addr
opaque Config.openSync1 : Addr
/-- The profiles' writes but for the packet length and the sync word. -/
opaque Config.openTxProfile1 : List ProfileWrite
opaque Config.openTxPatable : List Byte
opaque Config.openTxProfile2 : List ProfileWrite
opaque Config.openRxProfile : List ProfileWrite
opaque Config.openRxPatable : List Byte
opaque Config.openRxRearm : List ProfileWrite

end Sys2Proof
end

