-- ==== Sys2Proof/Syntax.lean ====
section
/-! DEFINITION. Syntax.lean: the 21 operations and 6 bus transactions of spec/opcode_table.json as one inductive
type, the words that carry them, and the spec's pseudo-operations (30_encoding R94, R98; 40_bus R115 to R120). -/

namespace Sys2Proof

/-- One constructor per row of the opcode table. Operands are values (10_state R20). An address operand of a
host-visible operation is a byte, because 41_driver R131 says what an address above 0x3F does; in a bus transaction
it is the 6-bit field of the header. -/
inductive Instr where
  -- register driver operations (41_driver_ops)
  | reset
  | strobe (code : Byte)
  | writeReg (addr value : Byte)
  | writeBurst (addr : Byte) (v : List Byte)
  | readReg (addr : Byte) (kind : Bool)
  | readMed3 (addr : Byte)
  | readBurst (addr : Byte) (n : Nat)
  | receiveFifo (maxLen : Nat)
  | transmitFifo (b : List Byte)
  | statusDecode
  -- packet codec operations (42 to 44)
  | encode (p : List Byte)
  | decode (w : List Byte)
  | declen (l : Nat)
  | csumGen (b : List Byte)
  | csumChk (b : List Byte)
  | chkCmp (d c : List Byte)
  | findCmd (b : List Byte)
  | buildPayload (cmd : BitVec 4) (ctr : Byte)
  | buildFrame (p : List Byte)
  | parse (d c : List Byte)
  | cfgId (devType id0 id1 id2 : Byte)
  -- bus transactions (40_bus_transactions, header forms HDR.*)
  | hdrStrobe (code : Addr)
  | hdrWrs (addr : Addr) (v : Byte)
  | hdrWrb (addr : Addr) (v : List Byte)
  | hdrRds (addr : Addr)
  | hdrRdstat (addr : Addr)
  | hdrRdb (addr : Addr) (n : Nat)
  deriving DecidableEq, Repr

/-- An operand as the operation port carries it, by value and of its declared width (10_state R20, 30_encoding R94).
DESIGN CHOICE, notes/assumptions/5.md: the spec gives operands no serial layout, so none is invented. -/
inductive Operand where
  | byte (b : Byte)
  | bytes (l : List Byte)
  | nat (n : Nat)
  | bit (b : Bool)
  | cmd (c : BitVec 4)
  deriving DecidableEq, Repr

/-- A word the block is given: an operation on the operation port (a 5-bit code, 30_encoding R94, and operands), or
the bytes one bus bracket sends, header first (30_encoding R80 to R83, R96). The two are separate encoding spaces. -/
inductive PortWord where
  | op (code : BitVec 5) (args : List Operand)
  | bus (bytes : List Byte)
  deriving DecidableEq, Repr

/-- `READ_STATUS a` = `READ_REG a, 1` (30_encoding R98). -/
abbrev Instr.readStatus (a : Byte) : Instr := .readReg a true

/-- `READ_CONFIG a` = `READ_REG a, 0` (30_encoding R98). -/
abbrev Instr.readConfig (a : Byte) : Instr := .readReg a false

/-- `WRITE_FIFO_BYTE v` = `WRITE_REG A_FIFO, v` (30_encoding R98). -/
abbrev Instr.writeFifoByte (c : Cfg) (v : Byte) : Instr := .writeReg (c.aFifo.setWidth 8) v

/-- `REARM_RX` = idle, flush-RX, RX strobes (30_encoding R98). -/
def Instr.rearmRx (c : Cfg) : List Instr :=
  [.strobe (c.sIdle.setWidth 8), .strobe (c.sFlushRx.setWidth 8), .strobe (c.sRx.setWidth 8)]

end Sys2Proof
end

