-- ==== Sys2Proof/WellFormed.lean ====
section
/-! DEFINITION. WellFormed.lean: the instructions that have a word, as a check on the term alone. Operands that a
rule refuses with a fault (an illegal address, an over-long string) are well formed: the meaning refuses them. -/

namespace Sys2Proof

/-- The status and strobe numbers, 0x30..0x3D (20_memory R50, R52, R53). -/
def inStatRange (a : Nat) : Bool := 0x30 ≤ a && a ≤ 0x3D

/-- The configuration register addresses, 0x00..0x2E (20_memory R50, R51). -/
def inCfgRange (a : Nat) : Bool := a ≤ 0x2E

/-- An instruction that some word stands for.
* `HDR.STROBE`, `HDR.RDSTAT`: address in 0x30..0x3D; `HDR.WRS`, `HDR.RDB`: an address outside it, where the same
  access code means a strobe or a status read (30_encoding R81). -/
def Instr.wf : Instr → Bool
  | .hdrStrobe a => inStatRange a.toNat
  | .hdrWrs a _ => !inStatRange a.toNat
  | .hdrRdstat a => inStatRange a.toNat
  | .hdrRdb a _ => !inStatRange a.toNat
  | .reset | .strobe _ | .writeReg _ _ | .writeBurst _ _ | .readReg _ _ | .readMed3 _ | .readBurst _ _
  | .receiveFifo _ | .transmitFifo _ | .statusDecode | .encode _ | .decode _ | .declen _ | .csumGen _ | .csumChk _
  | .chkCmp _ _ | .findCmd _ | .buildPayload _ _ | .buildFrame _ | .parse _ _ | .cfgId _ _ _ _ | .hdrWrb _ _
  | .hdrRds _ => true

end Sys2Proof
end

