-- ==== Sys2Proof/Decode.lean ====
section
/-! DEFINITION. Decode.lean: from a word to an instruction, total, refusing by name; the encoder written from the same
tables (30_encoding R80 to R83, R94 to R96); each instruction's row of spec/opcode_table.json; and the host's view
`decodeTableWord`. -/

namespace Sys2Proof

/-- Why a word is no instruction. -/
inductive DecodeError where
  /-- The operation code selects nothing (30_encoding R95 a). -/
  | illegalOp (code : BitVec 5)
  /-- The bytes of a bracket that no row of the table of 30_encoding R82 has: "Any other combination is refused by the
  multiplexer" (R82, R95 b). -/
  | outsideTable (bytes : List Byte)
  /-- The operation named got operands of another number or type than 30_encoding R94 lists. -/
  | operandShape (mnemonic : String)
  deriving DecidableEq, Repr

/-- Header assembly: `hdr = (rw << 7) | (burst << 6) | addr` (30_encoding R83). -/
def header (rw burst : Bool) (a : Addr) : Byte :=
  (if rw then 0x80#8 else 0#8) ||| (if burst then 0x40#8 else 0#8) ||| a.setWidth 8

/-- The `rw` bit of a header byte, bit 7 (30_encoding R80). -/
def hdrRw (h : Byte) : Bool := bit h 7

/-- The `burst` bit of a header byte, bit 6 (30_encoding R80). -/
def hdrBurst (h : Byte) : Bool := bit h 6

/-- The `addr` field of a header byte, bits 5:0 (30_encoding R80). -/
def hdrAddr (h : Byte) : Addr := h.setWidth 6

/-- The operation port: the code of 30_encoding R94 and the operands it lists. -/
def decodeOp (code : BitVec 5) (args : List Operand) : Except DecodeError Instr :=
  match code.toNat with
  | 0x00 => match args with | [] => .ok .reset | _ => .error (.operandShape "RESET")
  | 0x01 => match args with | [.byte c] => .ok (.strobe c) | _ => .error (.operandShape "STROBE")
  | 0x02 => match args with | [.byte a, .byte v] => .ok (.writeReg a v) | _ => .error (.operandShape "WRITE_REG")
  | 0x03 => match args with | [.byte a, .bytes v] => .ok (.writeBurst a v) | _ => .error (.operandShape "WRITE_BURST")
  | 0x04 => match args with | [.byte a, .bit k] => .ok (.readReg a k) | _ => .error (.operandShape "READ_REG")
  | 0x05 => match args with | [.byte a] => .ok (.readMed3 a) | _ => .error (.operandShape "READ_MED3")
  | 0x06 => match args with | [.byte a, .nat n] => .ok (.readBurst a n) | _ => .error (.operandShape "READ_BURST")
  | 0x07 => match args with | [.nat n] => .ok (.receiveFifo n) | _ => .error (.operandShape "RECEIVE_FIFO")
  | 0x08 => match args with | [.bytes b] => .ok (.transmitFifo b) | _ => .error (.operandShape "TRANSMIT_FIFO")
  | 0x09 => match args with | [] => .ok .statusDecode | _ => .error (.operandShape "STATUS_DECODE")
  | 0x10 => match args with | [.bytes p] => .ok (.encode p) | _ => .error (.operandShape "ENCODE")
  | 0x11 => match args with | [.bytes w] => .ok (.decode w) | _ => .error (.operandShape "DECODE")
  | 0x12 => match args with | [.nat l] => .ok (.declen l) | _ => .error (.operandShape "DECLEN")
  | 0x13 => match args with | [.bytes b] => .ok (.csumGen b) | _ => .error (.operandShape "CSUM_GEN")
  | 0x14 => match args with | [.bytes b] => .ok (.csumChk b) | _ => .error (.operandShape "CSUM_CHK")
  | 0x15 => match args with | [.bytes d, .bytes c] => .ok (.chkCmp d c) | _ => .error (.operandShape "CHK_CMP")
  | 0x16 => match args with | [.bytes b] => .ok (.findCmd b) | _ => .error (.operandShape "FIND_CMD")
  | 0x17 => match args with | [.cmd c, .byte t] => .ok (.buildPayload c t) | _ => .error (.operandShape "BUILD_PAYLOAD")
  | 0x18 => match args with | [.bytes p] => .ok (.buildFrame p) | _ => .error (.operandShape "BUILD_FRAME")
  | 0x19 => match args with | [.bytes d, .bytes c] => .ok (.parse d c) | _ => .error (.operandShape "PARSE")
  | 0x1A =>
    match args with
    | [.byte t, .byte i0, .byte i1, .byte i2] => .ok (.cfgId t i0 i1 i2)
    | _ => .error (.operandShape "CFG_ID")
  | _ => .error (.illegalOp code)

/-- After a header (0, 0): with an address in 0x30..0x3D "a command strobe and carries no data", with any other one data
byte (30_encoding R81, R82). -/
def singleWriteForm (a : Addr) : List Byte → Option Instr
  | [] => if inStatRange a.toNat then some (.hdrStrobe a) else none
  | [v] => if inStatRange a.toNat then none else some (.hdrWrs a v)
  | _ :: _ :: _ => none

/-- After a header (1, 0) and `n` dummy bytes: one dummy byte (30_encoding R82). -/
def singleReadForm (a : Addr) (n : Nat) : Option Instr := if n = 1 then some (.hdrRds a) else none

/-- After a header (1, 1) and `n` dummy bytes: with an address in 0x30..0x3D "it reads one status register", with any other
a burst (30_encoding R81, R82). -/
def burstReadForm (a : Addr) (n : Nat) : Option Instr :=
  if inStatRange a.toNat then if n = 1 then some (.hdrRdstat a) else none else some (.hdrRdb a n)

/-- The form of a bracket with header `h`; a dummy byte is 0x00 (30_encoding R83). -/
def busForm (h : Byte) (data : List Byte) : Option Instr :=
  match hdrRw h, hdrBurst h with
  | false, false => singleWriteForm (hdrAddr h) data
  | false, true => some (.hdrWrb (hdrAddr h) data)
  | true, false => if data.all (· == 0) then singleReadForm (hdrAddr h) data.length else none
  | true, true => if data.all (· == 0) then burstReadForm (hdrAddr h) data.length else none

/-- One bus bracket's bytes (30_encoding R81, R82, R96): the access code selects the form, and with it an address in
0x30..0x3D a strobe or a status read. Which addresses a form may carry is the multiplexer's check, made by the meaning
(41_driver R131). A bracket of no bytes, which 40_bus R113 says does not occur, has no row either
(notes/assumptions/5.md). -/
def decodeBus : List Byte → Except DecodeError Instr
  | [] => .error (.outsideTable [])
  | h :: data =>
    match busForm h data with
    | some i => .ok i
    | none => .error (.outsideTable (h :: data))

/-- Decoding, total on every word. -/
def decode : PortWord → Except DecodeError Instr
  | .op code args => decodeOp code args
  | .bus bytes => decodeBus bytes

/-- The dummy bytes sent to clock `n` bytes in: 0x00 (30_encoding R83). -/
def dummies (n : Nat) : List Byte := List.replicate n 0

/-- The word of an instruction (30_encoding R83, R94). -/
def encode : Instr → PortWord
  | .reset => .op 0x00 []
  | .strobe c => .op 0x01 [.byte c]
  | .writeReg a v => .op 0x02 [.byte a, .byte v]
  | .writeBurst a v => .op 0x03 [.byte a, .bytes v]
  | .readReg a k => .op 0x04 [.byte a, .bit k]
  | .readMed3 a => .op 0x05 [.byte a]
  | .readBurst a n => .op 0x06 [.byte a, .nat n]
  | .receiveFifo n => .op 0x07 [.nat n]
  | .transmitFifo b => .op 0x08 [.bytes b]
  | .statusDecode => .op 0x09 []
  | .encode p => .op 0x10 [.bytes p]
  | .decode w => .op 0x11 [.bytes w]
  | .declen l => .op 0x12 [.nat l]
  | .csumGen b => .op 0x13 [.bytes b]
  | .csumChk b => .op 0x14 [.bytes b]
  | .chkCmp d c => .op 0x15 [.bytes d, .bytes c]
  | .findCmd b => .op 0x16 [.bytes b]
  | .buildPayload c t => .op 0x17 [.cmd c, .byte t]
  | .buildFrame p => .op 0x18 [.bytes p]
  | .parse d c => .op 0x19 [.bytes d, .bytes c]
  | .cfgId t i0 i1 i2 => .op 0x1A [.byte t, .byte i0, .byte i1, .byte i2]
  | .hdrStrobe a => .bus [header false false a]
  | .hdrWrs a v => .bus [header false false a, v]
  | .hdrWrb a v => .bus (header false true a :: v)
  | .hdrRds a => .bus (header true false a :: dummies 1)
  | .hdrRdstat a => .bus (header true true a :: dummies 1)
  | .hdrRdb a n => .bus (header true true a :: dummies n)

/-- The first byte of a word as spec/opcode_table.json numbers it: the operation code in bits 4:0 (format OP), or the
header byte (format HDR). -/
def PortWord.first : PortWord → Byte
  | .op code _ => code.setWidth 8
  | .bus bytes => bytes.headD 0

/-- An instruction's row of spec/opcode_table.json: mnemonic, match, mask. Copied from the table, not computed from the
encoder. -/
def Instr.row : Instr → String × Byte × Byte
  | .reset => ("RESET", 0x00, 0x1F)
  | .strobe _ => ("STROBE", 0x01, 0x1F)
  | .writeReg _ _ => ("WRITE_REG", 0x02, 0x1F)
  | .writeBurst _ _ => ("WRITE_BURST", 0x03, 0x1F)
  | .readReg _ _ => ("READ_REG", 0x04, 0x1F)
  | .readMed3 _ => ("READ_MED3", 0x05, 0x1F)
  | .readBurst _ _ => ("READ_BURST", 0x06, 0x1F)
  | .receiveFifo _ => ("RECEIVE_FIFO", 0x07, 0x1F)
  | .transmitFifo _ => ("TRANSMIT_FIFO", 0x08, 0x1F)
  | .statusDecode => ("STATUS_DECODE", 0x09, 0x1F)
  | .encode _ => ("ENCODE", 0x10, 0x1F)
  | .decode _ => ("DECODE", 0x11, 0x1F)
  | .declen _ => ("DECLEN", 0x12, 0x1F)
  | .csumGen _ => ("CSUM_GEN", 0x13, 0x1F)
  | .csumChk _ => ("CSUM_CHK", 0x14, 0x1F)
  | .chkCmp _ _ => ("CHK_CMP", 0x15, 0x1F)
  | .findCmd _ => ("FIND_CMD", 0x16, 0x1F)
  | .buildPayload _ _ => ("BUILD_PAYLOAD", 0x17, 0x1F)
  | .buildFrame _ => ("BUILD_FRAME", 0x18, 0x1F)
  | .parse _ _ => ("PARSE", 0x19, 0x1F)
  | .cfgId _ _ _ _ => ("CFG_ID", 0x1A, 0x1F)
  | .hdrStrobe _ => ("HDR.STROBE", 0x30, 0xF0)
  | .hdrWrs _ _ => ("HDR.WRS", 0x00, 0xC0)
  | .hdrWrb _ _ => ("HDR.WRB", 0x40, 0xC0)
  | .hdrRds _ => ("HDR.RDS", 0x80, 0xC0)
  | .hdrRdstat _ => ("HDR.RDSTAT", 0xF0, 0xF0)
  | .hdrRdb _ _ => ("HDR.RDB", 0xC0, 0xC0)

/-- Operands of zeros for an operation code (the opcode table gives operands no bits): a zero byte, address, kind,
command or natural; a byte string of zero bytes, of the least length the table's row admits. -/
def zeroArgs (code : BitVec 5) : List Operand :=
  match code.toNat with
  | 0x01 | 0x05 => [.byte 0]
  | 0x02 => [.byte 0, .byte 0]
  | 0x03 => [.byte 0, .bytes []]
  | 0x04 => [.byte 0, .bit false]
  | 0x06 => [.byte 0, .nat 0]
  | 0x07 | 0x12 => [.nat 0]
  | 0x08 | 0x14 => [.bytes [0]]
  | 0x10 | 0x11 | 0x13 | 0x18 => [.bytes []]
  | 0x15 => [.bytes (dummies 6), .bytes (dummies 6)]
  | 0x16 => [.bytes (dummies 6)]
  | 0x17 => [.cmd 0, .byte 0]
  | 0x19 => [.bytes [], .bytes []]
  | 0x1A => [.byte 0, .byte 0, .byte 0, .byte 0]
  | _ => []

/-- The bytes of `w` above its first one, `k` of them, lowest first. -/
def higherBytes (w k : Nat) : List Byte := (List.range k).map fun i => BitVec.ofNat 8 (w >>> (8 * (i + 1)))

/-- The word whose bits the opcode table numbers `w`: an operation code when the bits above bit 4 are all zero, else
the bytes of a bus bracket with operand bytes of zeros up to the form's length. An opcode-table word below 0x20 belongs
to both of the table's formats (`RESET` and `HDR.WRS` of address 0 are both 0x00); it is read as an operation code here
(notes/assumptions/5.md). The `nbits` given bits, and no more, are taken from `w`. -/
def tableWord (nbits w : Nat) : PortWord :=
  if w < 0x20 then .op (BitVec.ofNat 5 w) (zeroArgs (BitVec.ofNat 5 w))
  else
    let h := BitVec.ofNat 8 w
    let given := higherBytes w ((nbits - 1) / 8)
    if hdrRw h = false ∧ hdrBurst h = false ∧ inStatRange (hdrAddr h).toNat then .bus (h :: given)
    else .bus (h :: (if given.isEmpty then [0] else given))

/-- The instruction the decoder reads from bits `w` numbered as spec/opcode_table.json numbers them. -/
def decodeTableWord (nbits w : Nat) : Option Instr :=
  match decode (tableWord nbits w) with
  | .ok i => some i
  | .error _ => none

end Sys2Proof
end

