-- ==== Sys2Proof/Machine/Profile.lean ====
section
/-! DEFINITION. Profile.lean: the fixed parameters of 00_scope R9, the constraints of R10, and the configuration
`State.reset` is built from (profile GK of 95_test_vectors section 0). -/

namespace Sys2Proof

/-- `RX_SKIP`: "skip a fixed 2-byte offset" (00_scope R9, 43_codec R181). -/
def rxSkip : Nat := 2

/-- `RX_PKT_LEN`: "fixed-63-byte-packet mode" (00_scope R9, 45_host R237). -/
def rxPktLen : Nat := 63

/-- `PAYLOAD_LEN` (00_scope R9, 30_encoding R88). -/
def payloadLen : Nat := 12

/-- `CMD_LEN` (00_scope R9). -/
def cmdLen : Nat := 6

/-- `MARK_PERIOD`, in data pairs (00_scope R9, conflict C1). -/
def markPeriod : Nat := 4

/-- `FIFO_HEADROOM` (00_scope R9, 41_driver R138). -/
def fifoHeadroom : Nat := 3

/-- `CHUNK = FIFO_SIZE - FIFO_HEADROOM` (00_scope R10, 41_driver R138). -/
def Cfg.chunk (c : Cfg) : Nat := c.fifoSize - fifoHeadroom

/-- `SYNC_SET`: the six registers of the synchronization erratum (41_driver R141). -/
def Cfg.syncSet (c : Cfg) : List Addr :=
  [c.aFreqest, c.aMarcstate, c.aRxbytes, c.aTxbytes, c.aWortime1, c.aWortime0]

/-- The strobe codes of `Cfg` (00_scope R9). -/
def Cfg.strobes (c : Cfg) : List Addr :=
  [c.sReset, c.sCal, c.sRx, c.sTx, c.sIdle, c.sPwd, c.sFlushRx, c.sFlushTx]

/-- "`RST_SEQ` must alternate levels and end with level 0" (41_driver R130); the empty list, which leaves `CSn` at 0,
is let pass (DEDUCED, notes/assumptions/8.md). -/
def rstSeqOk : List (Bool × Nat) → Bool
  | [] => true
  | [(level, _)] => !level
  | (level, _) :: (next, d) :: rest => level != next && rstSeqOk ((next, d) :: rest)

/-- What the host's lists must hold: `TX_PROFILE` part 2 writes the frame's length (45_host R231); `RX_PROFILE` and
`RX_REARM` write the packet length and the two sync-word bytes (R235, R238) (DEDUCED, notes/assumptions/8.md). That the
lists have these writes is all construction tests. It does not test that the registers hold `len(F)` or 63 and `SYNC_WORD`
afterwards: a later `.reg` write to `aPktlen`, `aSync0` or `aSync1`, two of these that are equal, and one outside 0x00..0x2E
are let pass, the agreement being "Kept by the host" (70_reset R307) (DESIGN CHOICE, notes/assumptions/8.md). -/
def Cfg.profilesOk (c : Cfg) : Bool :=
  c.txProfile2.contains .packetLength
  && [ProfileWrite.packetLength, .sync0, .sync1].all fun w => c.rxProfile.contains w && c.rxRearm.contains w

/-- An address the FIFO or the power table may have: outside 0x00..0x2E and 0x30..0x3D (00_scope R10), and not 0x2F, which
"belongs to no space the document names; the multiplexer refuses it" (20_memory R54) (DEDUCED, notes/assumptions/12.md). -/
def streamAddrOk (a : Addr) : Bool := !inCfgRange a.toNat && !inStatRange a.toNat && a.toNat != 0x2F

/-- The constraint between transmit and receive: `SYNC_WORD` is the two frame bytes that end `RX_SKIP` bytes before
`ENCODE(P)`, those at offsets `len(PREAMBLE) + len(SYNC_MARKER) - 4` and `- 3` (44_codec R212). -/
abbrev Cfg.SyncWordFits (c : Cfg) : Prop :=
  let head := c.preamble ++ c.syncMarker
  4 ≤ head.length ∧ c.syncWord0 = head.getD (head.length - 4) 0 ∧ c.syncWord1 = head.getD (head.length - 3) 0

/-- The constraints a `Cfg` must meet (00_scope R10; `0 <= SEL0 <= 7` holds by its type; the last two are 41_driver
R130's and 45_host's). A `Cfg` that breaks one is CONFIG_MISMATCH (60_exceptions R265). `Cfg.SyncWordFits` is not among
them: a block whose host does not meet it is constructed, and decodes what the chip delivers (DESIGN CHOICE,
notes/assumptions/13.md). -/
def Cfg.valid (c : Cfg) : Bool :=
  fifoHeadroom + 3 ≤ c.fifoSize
  && c.syncSet.all (fun a => inStatRange a.toNat)
  && c.strobes.all (fun a => inStatRange a.toNat)
  && [c.aFifo, c.aPatable].all streamAddrOk
  && payloadLen ≤ c.payloadMax
  && rxPktLen ≤ c.wireMax
  && c.fifoSize ≤ c.burstMax
  && rstSeqOk c.rstSeq
  && c.profilesOk

/-- The default `STATE_TABLE`: "reads that order as the code order" (30_encoding R85, conflict C2). -/
def defaultStateTable : StateTable :=
  ⟨.idle, .rx, .tx, .fstxon, .calibrate, .settling, .rxOverflow, .txUnderflow⟩

/-- `SIG[LOW] = (34,241,3,99,2,4)`, the one row the source gives (10_state R27). -/
def sigLow : Sig6 := ⟨34, 241, 3, 99, 2, 4⟩

/-- `SIG`: LOW's row as the source gives it, the others as configured (00_scope R9, 10_state R27). -/
def Cfg.sig (c : Cfg) : SigTable where
  join := c.openSigs.join
  leave := c.openSigs.leave
  low := sigLow
  medium := c.openSigs.medium
  high := c.openSigs.high
  timer1 := c.openSigs.timer1
  timer2 := c.openSigs.timer2
  timer3 := c.openSigs.timer3

/-- The configuration of `State.reset`: profile GK of 95_test_vectors section 0. PRESUMED, the values of the Texas
Instruments CC1101 family, and unsafe (notes/assumptions/3.md); the fields no source suggests a value for are the
uninterpreted constants of Config.lean, and `SYNC_WORD` is what 44_codec R212 makes of them. Statements hold for every `Cfg`, not for this one. -/
def Cfg.profileGK : Cfg where
  sel0 := 0
  openSigs := {
    join := Config.openSig .join, leave := Config.openSig .leave,
    medium := Config.openSig .medium, high := Config.openSig .high, timer1 := Config.openSig .timer1,
    timer2 := Config.openSig .timer2, timer3 := Config.openSig .timer3 }
  preamble := Config.openPreamble
  syncMarker := Config.openSyncMarker
  terminator := Config.openTerminator
  padByte := Config.openPadByte
  padCount := Config.openPadCount
  stateTable := defaultStateTable
  aFifo := 0x3F
  aPatable := 0x3E
  aFreqest := 0x32
  aMarcstate := 0x35
  aRxbytes := 0x3B
  aTxbytes := 0x3A
  aWortime1 := 0x36
  aWortime0 := 0x37
  sReset := 0x30
  sCal := 0x33
  sRx := 0x34
  sTx := 0x35
  sIdle := 0x36
  sPwd := 0x39
  sFlushRx := 0x3A
  sFlushTx := 0x3B
  marcMask := 0x1F
  marcIdle := 0x01
  marcRx := 0x0D
  marcRxovf := 0x11
  marcTxunf := 0x16
  fifoSize := 64
  txunfBit := 0x80
  occMask := 0x7F
  rstSeq := [(false, 5), (true, 10), (false, 45)]
  tSettle := 10000
  pollLimit := none
  wireMax := 255
  payloadMax := 64
  burstMax := 64
  aPktlen := Config.openPktlen
  aSync0 := Config.openSync0
  aSync1 := Config.openSync1
  txProfile1 := Config.openTxProfile1
  txPatable := Config.openTxPatable
  txProfile2 := .packetLength :: Config.openTxProfile2
  rxProfile := .packetLength :: .sync0 :: .sync1 :: Config.openRxProfile
  rxPatable := Config.openRxPatable
  rxRearm := .packetLength :: .sync0 :: .sync1 :: Config.openRxRearm
  syncWord0 := (Config.openPreamble ++ Config.openSyncMarker).getD
    ((Config.openPreamble ++ Config.openSyncMarker).length - 4) 0
  syncWord1 := (Config.openPreamble ++ Config.openSyncMarker).getD
    ((Config.openPreamble ++ Config.openSyncMarker).length - 3) 0

end Sys2Proof
end

