-- ==== Sys2Proof/Machine/State.lean ====
section
/-! DEFINITION. Machine/State.lean: the state of the block, of the host and of the interface between them, as plain
data; the reasons a step can stop; construction and the state after block reset (10_state; 70_reset R290, R292). -/

namespace Sys2Proof.Machine

/-- The fault codes held in `FAULT` (60_exceptions R260). -/
inductive FaultCode where
  | none | transportFault | deviceUnresponsive | illegalAccess | illegalOperand | illegalOp | configMismatch
  deriving DecidableEq, Repr, Inhabited

/-- The numbers of 60_exceptions R260, in the 3-bit register `FAULT`. -/
def FaultCode.code : FaultCode → BitVec 3
  | .none => 0
  | .transportFault => 1
  | .deviceUnresponsive => 2
  | .illegalAccess => 3
  | .illegalOperand => 4
  | .illegalOp => 5
  | .configMismatch => 6

/-- `MODE` of the host (10_state R36, 45_host R230). -/
inductive Mode where
  | idle | transmitReady | receiving
  deriving DecidableEq, Repr, Inhabited

/-- The device identity, `ID_TYPE` and `ID_DEV[0..2]` (10_state R26). -/
structure Identity where
  devType : Byte
  dev0 : Byte
  dev1 : Byte
  dev2 : Byte
  deriving DecidableEq, Repr, Inhabited

/-- A decoded packet (30_encoding R89). -/
structure Packet where
  devType  : Byte
  devId    : List Byte
  counter  : Byte
  cmdBytes : List Byte
  chkBytes : List Byte
  command  : Command
  chkOk    : Bool
  csumOk   : Bool
  deriving DecidableEq, Repr, Inhabited

/-- What an operation returns by value on the operation port (30_encoding R94; 60_exceptions R268). -/
inductive OpResult where
  /-- Completed, no result. -/
  | done
  | byte (b : Byte)
  | bytes (l : List Byte)
  /-- `STATUS_DECODE`: not_ready, state, fifo. -/
  | fields (notReady : Bool) (state : ChipState) (fifo : BitVec 4)
  /-- `ENCODE`: wire bytes and count. -/
  | wire (w : List Byte) (count : Nat)
  /-- `DECODE`: data bytes and check bytes. -/
  | decoded (d c : List Byte)
  | length (k : Nat)
  | flag (b : Bool)
  | command (c : Command)
  /-- `PARSE`: a packet or none. -/
  | packet (p : Option Packet)
  /-- The operation faulted or was refused with this code (60_exceptions R268, R269). -/
  | faulted (code : FaultCode)
  deriving DecidableEq, Repr

/-- What the block does on its pins, as an observer of the bus sees it (40_bus R110 to R114; 41_driver R130; waits: 00_scope
R15). -/
inductive BusEvent where
  /-- `CSn <- 1`. -/
  | select
  /-- `CSn <- 0`. -/
  | deselect
  /-- `RDY` was sampled 1: `AWAIT_READY` ended. -/
  | ready
  /-- A completed exchange: bytes sent and bytes received. -/
  | exchange (bytesOut bytesIn : List Byte)
  /-- An exchange the transport reported as failed. -/
  | exchangeFailed (bytesOut : List Byte)
  /-- `wait(t)`, microseconds, a lower bound. -/
  | wait (micros : Nat)
  deriving DecidableEq, Repr

/-- What the value of an arbitrated read (41_driver R134) is for, with the loop variables of the procedure around it
(10_state R31). -/
inductive ArbUse where
  /-- `READ_REG` itself. -/
  | readReg
  /-- `RECEIVE_FIFO`: the occupancy. -/
  | rxOcc (maxLen : Nat)
  /-- `RECEIVE_FIFO`: the radio state, `occ` being known. -/
  | rxMarc (maxLen occ : Nat)
  /-- `TRANSMIT_FIFO`: the underflow flag. -/
  | txUnf (b : List Byte)
  /-- `TRANSMIT_FIFO`: the drain poll, with its `attempts`. -/
  | txDrain (attempts : Nat)
  deriving DecidableEq, Repr

/-- What a median read (41_driver R135) is for. -/
inductive MedUse where
  /-- `READ_MED3` itself. -/
  | readMed3
  /-- `TRANSMIT_FIFO`: the occupancy wait at `idx`, with its `attempts`. -/
  | txOcc (b : List Byte) (idx attempts : Nat)
  deriving DecidableEq, Repr

/-- The position of the sequencer in a procedure, named by the transaction in flight, with the loop variables of
10_state R31 (10_state R28; 41_driver R142). -/
inductive Pos where
  /-- `STROBE` and `HDR.STROBE`: the strobe. -/
  | strobe
  /-- `WRITE_REG`, `WRITE_BURST`, `HDR.WRS`, `HDR.WRB`: the write. -/
  | write
  /-- `READ_REG` outside `SYNC_SET`, `HDR.RDS`, `HDR.RDSTAT`: the one read. -/
  | readOne
  /-- `READ_BURST`, `HDR.RDB`: the burst read. -/
  | readMany
  /-- `RESET`: the reset strobe. -/
  | chipReset
  /-- The arbiter: its first read. -/
  | arbFirst (use : ArbUse) (addr : Addr)
  /-- The arbiter: a later read; `v_prev` and `attempts`. -/
  | arbNext (use : ArbUse) (addr : Addr) (vPrev : Byte) (attempts : Nat)
  /-- The median: its first, second (`r[0]` known) and third read (`r[0]`, `r[1]` known). -/
  | med0 (use : MedUse) (addr : Addr)
  | med1 (use : MedUse) (addr : Addr) (r0 : Byte)
  | med2 (use : MedUse) (addr : Addr) (r0 r1 : Byte)
  /-- `RECEIVE_FIFO`: the FIFO burst read. -/
  | rxData
  /-- `RECEIVE_FIFO`: the re-arm strobes idle, flush-RX and RX; the result is known. -/
  | rxIdle (result : List Byte)
  | rxFlush (result : List Byte)
  | rxRestart (result : List Byte)
  /-- `TRANSMIT_FIFO`: the first idle strobe. -/
  | txFirstIdle (b : List Byte)
  /-- `TRANSMIT_FIFO`, underflow flag set: the idle strobe before the flush, and the flush. -/
  | txUnfIdle (b : List Byte)
  | txFlush (b : List Byte)
  /-- `TRANSMIT_FIFO`: the idle strobe before the load. -/
  | txIdle (b : List Byte)
  /-- `TRANSMIT_FIFO`: the first burst, of `len` bytes. -/
  | txLoad (b : List Byte) (len : Nat)
  /-- `TRANSMIT_FIFO`: the transmit strobe; `idx` bytes are in. -/
  | txStart (b : List Byte) (idx : Nat)
  /-- `TRANSMIT_FIFO`: the refill write of `B[idx + i]`, `i < len`. -/
  | txByte (b : List Byte) (idx len i : Nat)
  deriving DecidableEq, Repr

/-- A bus transaction in flight, after its `SELECT` (40_bus R114): the bytes to send, whether `RDY` was sampled 1,
`AWAIT_READY`'s `attempts`, and the bytes received so far, oldest first. -/
structure Txn where
  bytesOut : List Byte
  ready    : Bool
  attempts : Nat
  got      : List Byte
  deriving DecidableEq, Repr

/-- The sequencer state `SEQ` (10_state R28) while an operation waits for the chip. -/
structure Seq where
  pos : Pos
  txn : Txn
  deriving DecidableEq, Repr

/-- What an application asks of the host (45_host R240): `SEND`, `enter_receive_mode`, `POLL`. -/
inductive SessionCall where
  | send (cmd : BitVec 4)
  | enterReceive
  | poll
  deriving DecidableEq, Repr

/-- What the host returns to the application. -/
inductive SessionResult where
  | sent
  | receiving
  | polled (p : Option Packet)
  /-- An operation of `enter_receive_mode` faulted and the host gave it up (DESIGN CHOICE, notes/assumptions/7.md). `SEND`
  and `POLL` never return this: "Transmit failures are invisible to the caller", "receive failures simply yield no packet"
  (60_exceptions R276). -/
  | aborted (code : FaultCode)
  deriving DecidableEq, Repr

/-- Where the host stands in one of its sequences, named by the operation whose result it awaits (45_host R233, R235,
R237). -/
inductive SessionTask where
  /-- `SEND`: `BUILD_PAYLOAD`, `BUILD_FRAME`. -/
  | sendPayload (cmd : BitVec 4)
  | sendFrame (cmd : BitVec 4)
  /-- `SEND`: `enter_transmit_mode`, operations still to issue. -/
  | sendEnter (cmd : BitVec 4) (frame : List Byte) (left : List Instr)
  /-- `SEND`: the `k`-th `TRANSMIT_FIFO`. -/
  | sendTransmit (cmd : BitVec 4) (frame : List Byte) (k : Nat)
  /-- `SEND`: `exit_transmit_mode`. -/
  | sendExit
  /-- `enter_receive_mode`: the operations up to the calibration strobe, still to issue. -/
  | rxSetup (left : List Instr)
  /-- `enter_receive_mode`: the calibration poll. -/
  | rxCalibrate
  /-- `enter_receive_mode`: the RX strobe. -/
  | rxStart
  /-- `enter_receive_mode`: the RX poll. -/
  | rxWait (retried : Bool)
  /-- `enter_receive_mode`: the flush-RX and RX strobes of the one retry. -/
  | rxRetryFlush
  | rxRetryStart
  /-- `POLL`: `RECEIVE_FIFO 63`, `DECODE`, `PARSE`. -/
  | pollReceive
  | pollDecode
  | pollParse
  /-- `POLL`: the re-arm writes still to issue. -/
  | pollRearm (pkt : Option Packet) (left : List Instr)
  deriving DecidableEq, Repr

/-- What the host has lined up: a word for the operation port, a session call, or a block reset (45_host R241; 70_reset
R290). -/
inductive Request where
  | word (w : PortWord)
  | session (c : SessionCall)
  | blockReset
  /-- The host's running sequence first makes one move; so a block reset behind it falls between any two operations of the
  sequence (notes/assumptions/7.md). -/
  | goOn
  deriving DecidableEq, Repr

/-- Why the machine stops with a fault. The spec's own faults are no stops: they are entered by `State.raise`, a next
state. -/
inductive Fault where
  /-- Raised by `step` on a block whose `Cfg` breaks a constraint: "The block then does not exist and accepts no
  operation" (60_exceptions R265). Safe: no such block can be constructed. -/
  | configMismatch
  deriving DecidableEq, Repr

/-- Why the machine refuses. -/
inductive Refusal where
  /-- Raised by an arm of `exec` for an instruction with no meaning yet. Safe. -/
  | notModelled (mnemonic : String)
  /-- Raised by every meaning when `BUSY = 1`: "the model gives such an issue no step" (10_state R25, 92 D38). Safe. -/
  | portBusy
  /-- Raised by `step` for `POLL` outside Receiving: "no step" (93 U9). Safe. -/
  | pollOutsideReceiving
  /-- Raised by the host's move on a result no operation of its sequence returns. No run reaches it. Safe. -/
  | sessionOutOfStep
  deriving DecidableEq, Repr

/-- The whole state. -/
structure State where
  /-- The configuration, fixed at construction (00_scope R9). -/
  cfg : Cfg
  /-- `CSn`: true is "chip selected" (10_state R22). -/
  csn : Bool
  /-- `STATUS` and `STATUS_V`: `none` is "holds no value", `STATUS_V = 0` (10_state R23, R46). -/
  status : Option Byte
  /-- `FAULT` (10_state R24). -/
  fault : FaultCode
  /-- `BUSY` (10_state R25). -/
  busy : Bool
  /-- `ID_TYPE`, `ID_DEV` and `ID_V`: `none` is "holds no value", `ID_V = 0` (10_state R26, R46). -/
  ident : Option Identity
  /-- `SIG` (10_state R27). -/
  sig : SigTable
  /-- `SEQ` (10_state R28): `none` when it does not exist. -/
  seq : Option Seq
  /-- The host's `CTR` (10_state R36). -/
  ctr : Byte
  /-- The host's `MODE` (10_state R36). -/
  mode : Mode
  /-- The host's position in a sequence (45_host). -/
  task : Option SessionTask
  /-- What the host has lined up, first to be taken first. -/
  pending : List Request
  /-- What the operation port returned last. -/
  result : Option OpResult
  /-- What the host returned last. -/
  sessionResult : Option SessionResult
  /-- The chip's answers already given, oldest first (10_state R40). -/
  inbox : List BusSample
  /-- How many free answers were drawn after those. -/
  drawn : Nat
  /-- What the block did on its pins since its construction, newest first. -/
  trace : List BusEvent
  deriving DecidableEq, Repr

/-- `STATUS_V` (10_state R21). -/
def State.statusV (s : State) : Bool := s.status.isSome

/-- `ID_V` (10_state R21). -/
def State.idV (s : State) : Bool := s.ident.isSome

/-- The state after block reset (70_reset R292, 10_state R45) of a block built from `c`. -/
def State.fresh (c : Cfg) : State where
  cfg := c
  csn := false
  status := none
  fault := .none
  busy := false
  ident := none
  sig := c.sig
  seq := none
  ctr := 0
  mode := .idle
  task := none
  pending := []
  result := none
  sessionResult := none
  inbox := []
  drawn := 0
  trace := []

/-- Construction: "It first checks the constraints of 00_scope.md rule R10; on failure construction is refused with
CONFIG_MISMATCH" (70_reset R290, 60_exceptions R265). -/
def State.construct (c : Cfg) : Except FaultCode State :=
  if c.valid then .ok (State.fresh c) else .error .configMismatch

/-- The state right after block reset, of the block built from profile GK (notes/assumptions/3.md). -/
def State.reset : State := State.fresh Cfg.profileGK

end Sys2Proof.Machine
end

