-- ==== Sys2Proof/Machine/Operands.lean ====
section
/-! DEFINITION. Operands.lean: the multiplexer's legality table (30_encoding R82, 41_driver R131), the bytes each bus
transaction sends (40_bus R115 to R120), and the command codes (30_encoding R93). -/

namespace Sys2Proof.Machine

/-- `STROBE`: a code in 0x30..0x3D (30_encoding R82). -/
def legalStrobe (code : Nat) : Bool := inStatRange code

/-- The FIFO or the power table (20_memory R50, R54). Neither is at 0x2F in a block that exists (`streamAddrOk`). -/
def isStreamAddr (c : Cfg) (a : Nat) : Bool := a == c.aFifo.toNat || a == c.aPatable.toNat

/-- `WRS`: 0x00..0x2E, `A_FIFO`, `A_PATABLE` (30_encoding R82). -/
def legalWrite (c : Cfg) (a : Nat) : Bool := inCfgRange a || isStreamAddr c a

/-- `WRB` and `RDB` of `n` bytes: 0x00..0x2E with `a + n - 1 <= 0x2E`, `A_FIFO`, `A_PATABLE` (30_encoding R82). -/
def legalBurst (c : Cfg) (a n : Nat) : Bool := (inCfgRange a && a + n ≤ 0x2F) || isStreamAddr c a

/-- `RDS`: 0x00..0x2E (30_encoding R82). -/
def legalReadCfg (a : Nat) : Bool := inCfgRange a

/-- `RDSTAT`: 0x30..0x3D (30_encoding R82). -/
def legalReadStat (a : Nat) : Bool := inStatRange a

/-- `SYNC_SET` membership (41_driver R141). -/
def inSyncSet (c : Cfg) (a : Addr) : Bool := c.syncSet.contains a

/-- The 6-bit address field of an address operand that passed the legality check. -/
def field6 (a : Byte) : Addr := a.setWidth 6

/-- `STROBE(code)` sends `[code]` (40_bus R115). -/
def strobeBytes (code : Addr) : List Byte := [header false false code]

/-- `WRS(a, v)` sends `[a, v]` (40_bus R116). -/
def wrsBytes (a : Addr) (v : Byte) : List Byte := [header false false a, v]

/-- `WRB(a, v)` sends `[0x40 | a] ‖ v` (40_bus R117). -/
def wrbBytes (a : Addr) (v : List Byte) : List Byte := header false true a :: v

/-- `RDS(a)` sends `[0x80 | a, 0x00]` (40_bus R118). -/
def rdsBytes (a : Addr) : List Byte := header true false a :: dummies 1

/-- `RDSTAT(a)` sends `[0xC0 | a, 0x00]` (40_bus R119). -/
def rdstatBytes (a : Addr) : List Byte := header true true a :: dummies 1

/-- `RDB(a, n)` sends `[0xC0 | a] ‖ 0x00 x n` (40_bus R120). -/
def rdbBytes (a : Addr) (n : Nat) : List Byte := header true true a :: dummies n

/-- The codes of 30_encoding R93; 9 to 15 are reserved. -/
def Command.ofCode (c : BitVec 4) : Option Command :=
  match c.toNat with
  | 0 => some .join
  | 1 => some .leave
  | 2 => some .low
  | 3 => some .medium
  | 4 => some .high
  | 5 => some .timer1
  | 6 => some .timer2
  | 7 => some .timer3
  | 8 => some .unknown
  | _ => none

/-- The number of a command (30_encoding R93). -/
def Command.code : Command → BitVec 4
  | .join => 0
  | .leave => 1
  | .low => 2
  | .medium => 3
  | .high => 4
  | .timer1 => 5
  | .timer2 => 6
  | .timer3 => 7
  | .unknown => 8

/-- The eight commands with a signature, in code order (44_codec R207). -/
def signedCommands : List Command := [.join, .leave, .low, .medium, .high, .timer1, .timer2, .timer3]

/-- `SIG[c]`; "UNKNOWN has no signature" (10_state R27). -/
def SigTable.row (t : SigTable) : Command → Option Sig6
  | .join => some t.join
  | .leave => some t.leave
  | .low => some t.low
  | .medium => some t.medium
  | .high => some t.high
  | .timer1 => some t.timer1
  | .timer2 => some t.timer2
  | .timer3 => some t.timer3
  | .unknown => none

/-- The six bytes of a signature, in index order. -/
def Sig6.bytes (s : Sig6) : List Byte := [s.b0, s.b1, s.b2, s.b3, s.b4, s.b5]

end Sys2Proof.Machine
end

