-- ==== Sys2Proof/Machine/Flags.lean ====
section
/-! DEFINITION. Flags.lean: the fields of chip-provided values (30_encoding R84 to R87), the median, and the codec's two
result flags (10_state R32, R33; 44_codec R200, R201, R205). The block has no arithmetic flags. -/

namespace Sys2Proof.Machine

/-- `not_ready = s[7:7]` (30_encoding R84). -/
def statusNotReady (s : Byte) : Bool := bit s 7

/-- `state = s[6:4]`, the 3-bit code (30_encoding R84). -/
def statusCode (s : Byte) : BitVec 3 := s.extractLsb' 4 3

/-- `fifo = s[3:0]` (30_encoding R84). -/
def statusFifo (s : Byte) : BitVec 4 := s.extractLsb' 0 4

/-- `STATE_TABLE[code]` (30_encoding R85). -/
def StateTable.name (t : StateTable) (code : BitVec 3) : ChipState :=
  match code.toNat with
  | 0 => t.s0
  | 1 => t.s1
  | 2 => t.s2
  | 3 => t.s3
  | 4 => t.s4
  | 5 => t.s5
  | 6 => t.s6
  | _ => t.s7

/-- `status_fields(s)` (41_driver R139). -/
def statusFields (t : StateTable) (s : Byte) : OpResult :=
  .fields (statusNotReady s) (StateTable.name t (statusCode s)) (statusFifo s)

/-- The occupancy in a count register's value: `c & OCC_MASK` (30_encoding R86). -/
def occupancy (c : Cfg) (v : Byte) : Nat := (v &&& c.occMask).toNat

/-- The underflow flag in the TX count register's value: `(c & TXUNF_BIT) != 0` (30_encoding R86). -/
def underflowed (c : Cfg) (v : Byte) : Bool := v &&& c.txunfBit != 0

/-- The radio state compared: `value & MARC_MASK` (30_encoding R87). -/
def radioState (c : Cfg) (v : Byte) : Byte := v &&& c.marcMask

/-- "idle or TX-FIFO-underflow": the transmission drained (41_driver R138). -/
def drained (c : Cfg) (v : Byte) : Bool := radioState c v == c.marcIdle || radioState c v == c.marcTxunf

/-- The lesser and the greater of two bytes, unsigned (44_codec R203). -/
def byteMin (a b : Byte) : Byte := if a.toNat ≤ b.toNat then a else b
def byteMax (a b : Byte) : Byte := if a.toNat ≤ b.toNat then b else a

/-- The middle one of three bytes after sorting: `max(min(r0, r1), min(max(r0, r1), r2))` (41_driver R135). -/
def median3 (r0 r1 r2 : Byte) : Byte := byteMax (byteMin r0 r1) (byteMin (byteMax r0 r1) r2)

/-- The sum of a byte string, unbounded (44_codec R200). -/
def byteSum : List Byte → Nat
  | [] => 0
  | b :: bs => b.toNat + byteSum bs

/-- `CSUM_GEN`: `s <- sum mod 256; (256 - s) mod 256` (44_codec R200). -/
def checksum (b : List Byte) : Byte := BitVec.ofNat 8 ((256 - byteSum b % 256) % 256)

/-- `csum_ok`: the last byte is the checksum of the ones before it (44_codec R201). -/
def csumOk (b : List Byte) : Bool := checksum b.dropLast == b.getLastD 0

/-- `chk_ok`: every command byte equals its check byte (44_codec R205). -/
def chkOk (d c : List Byte) : Bool := d == c

/-- `FIND_CMD`: the first command in code order whose signature's last two bytes are `b4`, `b5`; else UNKNOWN
(44_codec R207). -/
def findCommand (t : SigTable) (b4 b5 : Byte) : Command :=
  let matching (c : Command) : Bool :=
    match SigTable.row t c with
    | some s => s.b4 == b4 && s.b5 == b5
    | none => false
  (signedCommands.find? matching).getD .unknown

end Sys2Proof.Machine
end

