-- ==== Sys2Proof/Machine/Codec.lean ====
section
/-! DEFINITION. Codec.lean: the packet codec's pure functions: the encoder and decoder machines (42_codec R161 to R166,
43_codec R181 to R183), their lengths and closed forms, and the assembly and parsing of payloads and frames
(44_codec R210 to R213). -/

namespace Sys2Proof.Machine

/-! ### Lengths -/

/-- `E(N)` (30_encoding R92). -/
def encodedLen (n : Nat) : Nat := if n = 0 then 0 else (20 * n - 2 + 7) / 8

/-- `DECLEN`: `K(L)` (43_codec R184). -/
def declen (l : Nat) : Nat :=
  if l < rxSkip then 0
  else
    let rem := l - rxSkip
    2 * (rem / 5) + (if 3 ≤ rem % 5 then 1 else 0)

/-! ### Encoder -/

/-- The encoder's fields (10_state R29); `e_out` is the length of `out`. -/
structure Encoder where
  eIn   : Nat
  eT    : Nat
  eSel  : Nat
  ePat  : Nat
  eAcc  : Byte
  eNbit : Nat
  out   : List Byte
  deriving DecidableEq, Repr

/-- Initial encoder state (42_codec R161). -/
def encoderStart (sel0 : Fin 8) : Encoder := ⟨0, 0, sel0.val, 0, 0, 0, []⟩

/-- Appending one bit to the stream (42_codec R164). -/
def Encoder.append (v : Bool) (e : Encoder) : Encoder :=
  let acc := if v then e.eAcc ||| (1#8 <<< (7 - e.eNbit)) else e.eAcc
  if e.eNbit + 1 = 8 then { e with out := e.out ++ [acc], eAcc := 0, eNbit := 0 }
  else { e with eAcc := acc, eNbit := e.eNbit + 1 }

/-- The literal pair (1, 0). -/
def Encoder.marker (e : Encoder) : Encoder := (e.append true).append false

/-- The marker injector: a marker pair when `MARK_PERIOD` data pairs were emitted since the last (42_codec R163). -/
def Encoder.inject (e : Encoder) : Encoder := if e.ePat = markPeriod then { e.marker with ePat := 0 } else e

/-- One data pair of the input byte `x`: the selected bit and its complement (42_codec R162). -/
def Encoder.dataPair (x : Byte) (e : Encoder) : Encoder :=
  let b := bit x e.eSel
  let e := (e.append b).append (!b)
  let e := { e with eSel := (e.eSel + 1) % 8, ePat := e.ePat + 1, eT := e.eT + 1 }
  if e.eT = 8 then { e with eT := 0, eIn := e.eIn + 1 } else e

/-- One selector step: a marker if due, then a data pair (42_codec R160). -/
def Encoder.step (x : Byte) (e : Encoder) : Encoder := e.inject.dataPair x

/-- `k` selector steps of one input byte. -/
def Encoder.steps (x : Byte) : Nat → Encoder → Encoder
  | 0, e => e
  | k + 1, e => Encoder.steps x k (e.step x)

/-- All input bytes in index order, 8 selector steps each. -/
def Encoder.bytes : List Byte → Encoder → Encoder
  | [], e => e
  | x :: xs, e => Encoder.bytes xs (Encoder.steps x 8 e)

/-- Padding: marker pairs while the output is not byte-aligned (42_codec R165). At most four pairs reach a boundary. -/
def Encoder.pad : Nat → Encoder → Encoder
  | 0, e => e
  | k + 1, e => if e.eNbit = 0 then e else Encoder.pad k e.marker

/-- `ENCODE P`: the output bytes (42_codec R160, R166). -/
def encodeWire (sel0 : Fin 8) (p : List Byte) : List Byte := (Encoder.pad 4 ((encoderStart sel0).bytes p)).out

/-- The closed form of the stream: bit `k` of `ENCODE P` (42_codec R168). -/
def encodedBit (sel0 : Fin 8) (p : List Byte) (k : Nat) : Bool :=
  let q := 4 * (k / 10) + (k % 10) / 2
  if k % 10 < 8 ∧ q < 8 * p.length then
    (bit (p.getD (q / 8) 0) ((sel0.val + q % 8) % 8)) ^^ (k % 2 == 1)
  else k % 2 == 0

/-! ### Decoder -/

/-- The decoder's fields (10_state R30), with the bytes being filled. -/
structure Decoder where
  dI    : Nat
  dJ    : Nat
  dSlot : Nat
  dDi   : Nat
  dCi   : Nat
  dDj   : Nat
  dCj   : Nat
  k     : Nat
  d     : List Byte
  c     : List Byte
  deriving DecidableEq, Repr

/-- Initial decoder state (43_codec R181). -/
def decoderStart (sel0 : Fin 8) (k : Nat) : Decoder :=
  ⟨rxSkip, 7, 0, 0, 0, sel0.val, sel0.val, k, List.replicate k 0, List.replicate k 0⟩

/-- `x | (v << j)` on a byte. -/
def orBit (x : Byte) (v : Bool) (j : Nat) : Byte := if v then x ||| (1#8 <<< j) else x

/-- An even bit, packed into a data byte (43_codec R183). -/
def Decoder.even (sel0 : Fin 8) (v : Bool) (e : Decoder) : Decoder :=
  if e.dDi < e.k then
    let e := { e with d := e.d.modify e.dDi (orBit · v e.dDj), dDj := (e.dDj + 1) % 8 }
    if e.dDj = sel0.val then { e with dDi := e.dDi + 1 } else e
  else e

/-- An odd bit, packed into a check byte that is inverted on completion (43_codec R183). -/
def Decoder.odd (sel0 : Fin 8) (v : Bool) (e : Decoder) : Decoder :=
  if e.dCi < e.k then
    let e := { e with c := e.c.modify e.dCi (orBit · v e.dCj), dCj := (e.dCj + 1) % 8 }
    if e.dCj = sel0.val then { e with c := e.c.modify e.dCi (~~~ ·), dCi := e.dCi + 1 } else e
  else e

/-- Slot classification and packing of one bit (43_codec R182). -/
def Decoder.bit (sel0 : Fin 8) (v : Bool) (e : Decoder) : Decoder :=
  let e :=
    if 8 ≤ e.dSlot then e
    else if e.dSlot % 2 = 0 then e.even sel0 v else e.odd sel0 v
  let e := { e with dSlot := (e.dSlot + 1) % 10 }
  if e.dJ = 0 then { e with dJ := 7, dI := e.dI + 1 } else { e with dJ := e.dJ - 1 }

/-- `n` bits of the wire byte `w`, each the one at `d_j`, most significant first (43_codec R180, R182). -/
def Decoder.bits (sel0 : Fin 8) (w : Byte) : Nat → Decoder → Decoder
  | 0, e => e
  | n + 1, e => Decoder.bits sel0 w n (e.bit sel0 (Sys2Proof.bit w e.dJ))

/-- The walk over the wire bytes (43_codec R182). -/
def Decoder.walk (sel0 : Fin 8) : List Byte → Decoder → Decoder
  | [], e => e
  | w :: ws, e => Decoder.walk sel0 ws (Decoder.bits sel0 w 8 e)

/-- `DECODE W`: data bytes and check bytes (43_codec R180). -/
def decodeWire (sel0 : Fin 8) (w : List Byte) : List Byte × List Byte :=
  let e := (decoderStart sel0 (declen w.length)).walk sel0 (w.drop rxSkip)
  (e.d, e.c)

/-- The closed form's `s_k`: bit `k` of the stream after the skipped bytes (43_codec R188, 20_memory R56). -/
def streamBit (w : List Byte) (k : Nat) : Bool := bit (w.getD (rxSkip + k / 8) 0) (7 - k % 8)

/-! ### Assembly and parsing -/

/-- The payload layout (30_encoding R88, 44_codec R210): type, id, counter, command bytes, checksum. -/
def payload (i : Identity) (ctr : Byte) (s : Sig6) : List Byte :=
  let body := [i.devType, i.dev0, i.dev1, i.dev2, ctr] ++ Sig6.bytes s
  body ++ [checksum body]

/-- `PREAMBLE ‖ SYNC_MARKER ‖ ENCODE(P) ‖ [TERMINATOR] ‖ PAD_BYTE x PAD_COUNT` (30_encoding R90, 44_codec R211). -/
def frame (c : Cfg) (p : List Byte) : List Byte :=
  c.preamble ++ c.syncMarker ++ encodeWire c.sel0 p ++ [c.terminator] ++ List.replicate c.padCount c.padByte

/-- `resolve` (44_codec R209): the check bytes first, then the signatures. -/
def resolve (t : SigTable) (d c : List Byte) : Command :=
  if chkOk d c then findCommand t (d.getD 4 0) (d.getD 5 0) else .unknown

/-- `PARSE` (44_codec R213): none below `PAYLOAD_LEN` decoded bytes. Strings of unequal length are no result of
`DECODE`; a short one counts as a wrong length (notes/assumptions/9.md). -/
def parsePacket (t : SigTable) (d c : List Byte) : Option Packet :=
  if d.length < payloadLen ∨ c.length < payloadLen then none
  else
    let cmd := (d.drop 5).take cmdLen
    let chk := (c.drop 5).take cmdLen
    some {
      devType := d.getD 0 0
      devId := (d.drop 1).take 3
      counter := d.getD 4 0
      cmdBytes := cmd
      chkBytes := chk
      command := resolve t cmd chk
      chkOk := chkOk cmd chk
      csumOk := csumOk (d.take payloadLen) }

end Sys2Proof.Machine
end

