-- ==== Sys2Proof/Machine/Ops.lean ====
section
/-! DEFINITION. Ops.lean: the named operations over the state: chip select, waits, acceptance and completion of an
operation, taking a fault, the bounded-poll check, and the bus transaction step by step (40_bus R110 to R114;
60_exceptions R263, R268, R269). There is no return from a fault (R275): only block reset leaves one. -/

namespace Sys2Proof.Machine

/-- An action on the pins, newest first in the trace. -/
def State.emit (e : BusEvent) (s : State) : State := { s with trace := e :: s.trace }

/-- `SELECT` (40_bus R110). -/
def State.select (s : State) : State := { s with csn := true, trace := .select :: s.trace }

/-- `DESELECT` (40_bus R111). -/
def State.deselect (s : State) : State := { s with csn := false, trace := .deselect :: s.trace }

/-- `wait(t)`: lets time pass and has no other effect (00_scope R15); the model records it (notes/assumptions/6.md). -/
def State.pause (micros : Nat) (s : State) : State := s.emit (.wait micros)

/-- Acceptance of an operation: `BUSY <- 1` (10_state R25); the port's last result is gone. -/
def State.accept (s : State) : State := { s with busy := true, result := none }

/-- Completion with a result: `SEQ` ceases to exist, `BUSY <- 0` (10_state R25, R28). -/
def State.finish (r : OpResult) (s : State) : State := { s with seq := none, busy := false, result := some r }

/-- `raise Fault(code)` (60_exceptions R268): deselect if selected; latch the code if none was; discard `SEQ`;
`BUSY <- 0`; report the code. `STATUS` is kept. -/
def State.raise (code : FaultCode) (s : State) : State :=
  let s := if s.csn then s.deselect else s
  { s with
    fault := if s.fault = .none then code else s.fault
    seq := none
    busy := false
    result := some (.faulted code) }

/-- An operation issued while `FAULT` is set: "it returns the stored code, does nothing, and leaves all state unchanged"
(60_exceptions R269). -/
def State.reportStored (s : State) : State := { s with result := some (.faulted s.fault) }

/-- Whether an attempt count passes `POLL_LIMIT` (60_exceptions R263); infinity is never passed. -/
def passesLimit (limit : Option Nat) (attempts : Nat) : Bool :=
  match limit with
  | none => false
  | some l => l < attempts

/-- `poll_guard()` (60_exceptions R263), in a loop that has counted `attempts`: `go` continues with the new count. -/
def State.pollGuard (attempts : Nat) (go : Nat → State → State) (s : State) : State :=
  if passesLimit s.cfg.pollLimit (attempts + 1) then s.raise .deviceUnresponsive else go (attempts + 1) s

/-- A transaction that has not begun to wait. -/
def Txn.start (bytesOut : List Byte) : Txn := ⟨bytesOut, false, 0, []⟩

/-- Beginning a transaction at a position of the procedure: `SELECT`, then `AWAIT_READY` (40_bus R114). -/
def State.beginTxn (pos : Pos) (bytesOut : List Byte) (s : State) : State :=
  { s.select with seq := some ⟨pos, Txn.start bytesOut⟩ }

/-- The transaction in flight replaced. -/
def State.setTxn (pos : Pos) (t : Txn) (s : State) : State := { s with seq := some ⟨pos, t⟩ }

/-- The end of a transaction (40_bus R114): `STATUS <- bytes_in[0]`, `DESELECT`. -/
def State.endTxn (bytesOut bytesIn : List Byte) (s : State) : State :=
  (({ s with status := some (bytesIn.headD 0), seq := none }).emit (.exchange bytesOut bytesIn)).deselect

/-- `require c` (00_scope R15) and the legality check (41_driver R131): when the condition is false the operation raises
the code before it does anything else. -/
def State.ensure (c : Bool) (code : FaultCode) (go : State → State) (s : State) : State :=
  if c then go s else s.raise code

end Sys2Proof.Machine
end

