-- ==== Sys2Proof/Machine/Sequencer.lean ====
section
/-! DEFINITION. Sequencer.lean: the driver's procedures as moves of the sequencer (41_driver R130 to R138): what the
block does when a transaction of a procedure has ended, how it takes one answer of the chip, and how an operation is
issued. -/

namespace Sys2Proof.Machine

/-- A register address of `Cfg` read as a status register once more (40_bus R119). -/
def State.beginStat (pos : Pos) (a : Addr) (s : State) : State := s.beginTxn pos (rdstatBytes a)

/-- A strobe (40_bus R115). -/
def State.beginStrobe (pos : Pos) (code : Addr) (s : State) : State := s.beginTxn pos (strobeBytes code)

/-- The arbiter's first read (41_driver R134). -/
def State.beginArbiter (use : ArbUse) (a : Addr) (s : State) : State := s.beginStat (.arbFirst use a) a

/-- The median's first read (41_driver R135). -/
def State.beginMedian (use : MedUse) (a : Addr) (s : State) : State := s.beginStat (.med0 use a) a

/-- `RECEIVE_FIFO`: re-arm, idle strobe first (41_driver R137). -/
def State.beginRearm (result : List Byte) (s : State) : State := s.beginStrobe (.rxIdle result) s.cfg.sIdle

/-- `RECEIVE_FIFO` once occupancy and radio state are known (41_driver R137). -/
def State.receiveBody (maxLen occ : Nat) (marc : Byte) (s : State) : State :=
  if radioState s.cfg marc = s.cfg.marcRxovf then s.beginRearm []
  else
    let len := min occ maxLen
    if len = 0 then s.beginRearm [] else s.beginTxn .rxData (rdbBytes s.cfg.aFifo len)

/-- `TRANSMIT_FIFO`: the drain poll (41_driver R138). -/
def State.beginDrain (attempts : Nat) (s : State) : State := s.beginArbiter (.txDrain attempts) s.cfg.aMarcstate

/-- `TRANSMIT_FIFO`: one pass of the occupancy wait at `idx` (41_driver R138). -/
def State.beginOccupancy (b : List Byte) (idx attempts : Nat) (s : State) : State :=
  s.beginMedian (.txOcc b idx attempts) s.cfg.aTxbytes

/-- `TRANSMIT_FIFO`: the streaming loop's test `idx < n` (41_driver R138). -/
def State.streamLoop (b : List Byte) (idx : Nat) (s : State) : State :=
  if idx < b.length then s.beginOccupancy b idx 0 else s.beginDrain 0

/-- `TRANSMIT_FIFO`: the single write of `B[idx + i]` (41_driver R138). -/
def State.refillByte (b : List Byte) (idx len i : Nat) (s : State) : State :=
  s.beginTxn (.txByte b idx len i) (wrsBytes s.cfg.aFifo (b.getD (idx + i) 0))

/-- `TRANSMIT_FIFO`: the occupancy wait has read `v` (41_driver R138). -/
def State.occupancyRead (b : List Byte) (idx attempts : Nat) (v : Byte) (s : State) : State :=
  let occ := occupancy s.cfg v
  if s.cfg.chunk - 2 < occ then s.pollGuard attempts (State.beginOccupancy b idx)
  else s.refillByte b idx (min (b.length - idx) (s.cfg.chunk - occ)) 0

/-- `TRANSMIT_FIFO`: the drain poll has read `v` (41_driver R138). -/
def State.drainRead (attempts : Nat) (v : Byte) (s : State) : State :=
  if drained s.cfg v then s.finish .done else s.pollGuard attempts State.beginDrain

/-- The arbiter has accepted `v` (41_driver R134, R137, R138). -/
def State.arbiterDone (use : ArbUse) (v : Byte) (s : State) : State :=
  match use with
  | .readReg => s.finish (.byte v)
  | .rxOcc maxLen => s.beginArbiter (.rxMarc maxLen (occupancy s.cfg v)) s.cfg.aMarcstate
  | .rxMarc maxLen occ => s.receiveBody maxLen occ v
  | .txUnf b => s.beginStrobe (if underflowed s.cfg v then .txUnfIdle b else .txIdle b) s.cfg.sIdle
  | .txDrain attempts => s.drainRead attempts v

/-- The median is `v` (41_driver R135, R138). -/
def State.medianDone (use : MedUse) (v : Byte) (s : State) : State :=
  match use with
  | .readMed3 => s.finish (.byte v)
  | .txOcc b idx attempts => s.occupancyRead b idx attempts v

/-- The procedure goes on after the transaction at `pos` ended with `bytes_in` (41_driver R130 to R138). -/
def State.resume (pos : Pos) (bytesIn : List Byte) (s : State) : State :=
  let v := bytesIn.getD 1 0
  match pos with
  | .strobe => s.finish (.byte (bytesIn.headD 0))
  | .write => s.finish .done
  | .readOne => s.finish (.byte v)
  | .readMany => s.finish (.bytes (bytesIn.drop 1))
  | .chipReset => (s.pause s.cfg.tSettle).finish .done
  | .arbFirst use a => s.beginStat (.arbNext use a v 0) a
  | .arbNext use a vPrev attempts =>
    if v = vPrev then s.arbiterDone use v
    else s.pollGuard attempts fun n s => s.beginStat (.arbNext use a v n) a
  | .med0 use a => s.beginStat (.med1 use a v) a
  | .med1 use a r0 => s.beginStat (.med2 use a r0 v) a
  | .med2 use _ r0 r1 => s.medianDone use (median3 r0 r1 v)
  | .rxData => s.beginRearm (bytesIn.drop 1)
  | .rxIdle result => s.beginStrobe (.rxFlush result) s.cfg.sFlushRx
  | .rxFlush result => s.beginStrobe (.rxRestart result) s.cfg.sRx
  | .rxRestart result => s.finish (.bytes result)
  | .txFirstIdle b => s.beginArbiter (.txUnf b) s.cfg.aTxbytes
  | .txUnfIdle b => s.beginStrobe (.txFlush b) s.cfg.sFlushTx
  | .txFlush b => s.beginStrobe (.txIdle b) s.cfg.sIdle
  | .txIdle b =>
    let len := min b.length s.cfg.chunk
    s.beginTxn (.txLoad b len) (wrbBytes s.cfg.aFifo (b.take len))
  | .txLoad b len => s.beginStrobe (.txStart b len) s.cfg.sTx
  | .txStart b idx => s.streamLoop b idx
  | .txByte b idx len i =>
    if i + 1 < len then s.refillByte b idx len (i + 1) else s.streamLoop b (idx + len)

/-- The block takes one answer of the chip (40_bus R112, R113): awaiting ready, a sample of `RDY`; exchanging, one byte
or the report that the exchange failed. -/
def State.takeSample (a : BusSample) (s : State) : State :=
  match s.seq with
  | none => s
  | some ⟨pos, t⟩ =>
    if t.ready then
      if a.fail then (s.emit (.exchangeFailed t.bytesOut)).raise .transportFault
      else
        let got := t.got ++ [a.data]
        if got.length < t.bytesOut.length then s.setTxn pos { t with got := got }
        else (s.endTxn t.bytesOut got).resume pos got
    else if a.rdy then (s.emit .ready).setTxn pos { t with ready := true }
    else s.pollGuard t.attempts fun n s => s.setTxn pos { t with attempts := n }

/-- The block takes answers while an operation waits for one; the rest stays in the inbox. -/
def State.takeAll : List BusSample → State → State
  | [], s => { s with inbox := [] }
  | a :: rest, s => if s.seq.isSome then State.takeAll rest (s.takeSample a) else { s with inbox := a :: rest }

/-- The block runs until its operation ends or the answers given so far are used up. -/
def State.settle (s : State) : State := s.takeAll s.inbox

/-- The chip's move, when the operation in flight waits: an answer given beforehand, or a free one (10_state R40;
notes/assumptions/1.md). -/
def State.chipMove (s : State) : State :=
  match s.inbox with
  | [] => ({ s with drawn := s.drawn + 1 }).takeAll [Config.freeSample s.drawn]
  | _ :: _ => s.settle

/-- Issuing an operation (60_exceptions R274): none while busy (10_state R25); a stored fault refuses it (R269); otherwise
it is accepted, its procedure begins, and the block runs as far as the chip's answers reach. -/
def issue (s : State) (body : State → State) : Host.Outcome State Fault Refusal :=
  if s.busy then .refused .portBusy
  else .next (if s.fault = .none then (body s.accept).settle else s.reportStored)

end Sys2Proof.Machine
end

