-- ==== Sys2Proof/Machine/BusTxn.lean ====
section
/-! DEFINITION. BusTxn.lean: the six bus transactions as instructions of their own (40_bus R115 to R120), refused by the
multiplexer outside the table of 30_encoding R82 (R95 b, 41_driver R131). -/

namespace Sys2Proof.Machine

/-- `HDR.STROBE`: `STROBE(code)` (40_bus R115). -/
def execHdrStrobe (code : Addr) (s : State) : Host.Outcome State Fault Refusal :=
  issue s fun s => s.ensure (legalStrobe code.toNat) .illegalAccess fun s => s.beginTxn .strobe (strobeBytes code)

/-- `HDR.WRS`: `WRS(a, v)` (40_bus R116). -/
def execHdrWrs (a : Addr) (v : Byte) (s : State) : Host.Outcome State Fault Refusal :=
  issue s fun s => s.ensure (legalWrite s.cfg a.toNat) .illegalAccess fun s => s.beginTxn .write (wrsBytes a v)

/-- `HDR.WRB`: `WRB(a, v)` (40_bus R117). Zero bytes "is not a transaction": nothing is issued (DESIGN CHOICE,
notes/assumptions/5.md). -/
def execHdrWrb (a : Addr) (v : List Byte) (s : State) : Host.Outcome State Fault Refusal :=
  issue s fun s => s.ensure (v.length ≤ s.cfg.burstMax) .illegalOperand fun s =>
    s.ensure (legalBurst s.cfg a.toNat v.length) .illegalAccess fun s =>
      if v = [] then s.finish .done else s.beginTxn .write (wrbBytes a v)

/-- `HDR.RDS`: `RDS(a)` (40_bus R118). -/
def execHdrRds (a : Addr) (s : State) : Host.Outcome State Fault Refusal :=
  issue s fun s => s.ensure (legalReadCfg a.toNat) .illegalAccess fun s => s.beginTxn .readOne (rdsBytes a)

/-- `HDR.RDSTAT`: `RDSTAT(a)`: one read, never repeated (40_bus R119). -/
def execHdrRdstat (a : Addr) (s : State) : Host.Outcome State Fault Refusal :=
  issue s fun s => s.ensure (legalReadStat a.toNat) .illegalAccess fun s => s.beginTxn .readOne (rdstatBytes a)

/-- `HDR.RDB`: `RDB(a, n)` (40_bus R120). Zero bytes "is not a transaction": nothing is issued (DESIGN CHOICE,
notes/assumptions/5.md). -/
def execHdrRdb (a : Addr) (n : Nat) (s : State) : Host.Outcome State Fault Refusal :=
  issue s fun s => s.ensure (n ≤ s.cfg.burstMax) .illegalOperand fun s =>
    s.ensure (legalBurst s.cfg a.toNat n) .illegalAccess fun s =>
      if n = 0 then s.finish (.bytes []) else s.beginTxn .readMany (rdbBytes a n)

end Sys2Proof.Machine
end

