-- ==== Sys2Proof/Machine/CodecOps.lean ====
section
/-! DEFINITION. CodecOps.lean: the eleven packet codec operations (42 to 44). They touch no bus; each completes, or
raises ILLEGAL_OPERAND, in the step that issues it. -/

namespace Sys2Proof.Machine

/-- The operands `ENCODE` takes: `N <= PAYLOAD_MAX` and `E(N) <= WIRE_MAX` (42_codec R160). -/
def encodable (c : Cfg) (p : List Byte) : Bool := p.length ≤ c.payloadMax && encodedLen p.length ≤ c.wireMax

/-- `ENCODE P` (42_codec R160). -/
def execEncode (p : List Byte) (s : State) : Host.Outcome State Fault Refusal :=
  issue s fun s => s.ensure (encodable s.cfg p) .illegalOperand fun s =>
    let w := encodeWire s.cfg.sel0 p
    s.finish (.wire w w.length)

/-- `DECODE W` (43_codec R180). -/
def execDecode (w : List Byte) (s : State) : Host.Outcome State Fault Refusal :=
  issue s fun s =>
    s.ensure (w.length ≤ s.cfg.wireMax && declen w.length ≤ s.cfg.payloadMax) .illegalOperand fun s =>
      let (d, c) := decodeWire s.cfg.sel0 w
      s.finish (.decoded d c)

/-- `DECLEN L` (43_codec R184). -/
def execDeclen (l : Nat) (s : State) : Host.Outcome State Fault Refusal :=
  issue s fun s => s.finish (.length (declen l))

/-- `CSUM_GEN B` (44_codec R200). -/
def execCsumGen (b : List Byte) (s : State) : Host.Outcome State Fault Refusal :=
  issue s fun s => s.ensure (b.length ≤ s.cfg.payloadMax) .illegalOperand fun s => s.finish (.byte (checksum b))

/-- `CSUM_CHK B` (44_codec R201). -/
def execCsumChk (b : List Byte) (s : State) : Host.Outcome State Fault Refusal :=
  issue s fun s => s.ensure (1 ≤ b.length && b.length ≤ s.cfg.payloadMax) .illegalOperand fun s =>
    s.finish (.flag (csumOk b))

/-- `CHK_CMP d, c` (44_codec R205). -/
def execChkCmp (d c : List Byte) (s : State) : Host.Outcome State Fault Refusal :=
  issue s fun s => s.ensure (d.length == cmdLen && c.length == cmdLen) .illegalOperand fun s =>
    s.finish (.flag (chkOk d c))

/-- `FIND_CMD b` (44_codec R207): only `b[4]` and `b[5]` are looked at. -/
def execFindCmd (b : List Byte) (s : State) : Host.Outcome State Fault Refusal :=
  issue s fun s => s.ensure (b.length == cmdLen) .illegalOperand fun s =>
    s.finish (.command (findCommand s.sig (b.getD 4 0) (b.getD 5 0)))

/-- `BUILD_PAYLOAD cmd, ctr` (44_codec R210): the identity must be set and the command have a signature. -/
def execBuildPayload (cmd : BitVec 4) (ctr : Byte) (s : State) : Host.Outcome State Fault Refusal :=
  issue s fun s =>
    match s.ident, (Command.ofCode cmd).bind (SigTable.row s.sig) with
    | some i, some sig => s.finish (.bytes (payload i ctr sig))
    | _, _ => s.raise .illegalOperand

/-- `BUILD_FRAME P` (44_codec R211): the faults of `ENCODE`, then `len(F) <= WIRE_MAX`. -/
def execBuildFrame (p : List Byte) (s : State) : Host.Outcome State Fault Refusal :=
  issue s fun s => s.ensure (encodable s.cfg p) .illegalOperand fun s =>
    s.ensure ((frame s.cfg p).length ≤ s.cfg.wireMax) .illegalOperand fun s => s.finish (.bytes (frame s.cfg p))

/-- `PARSE D, C` (44_codec R213): no fault, however malformed the frame. A string above `PAYLOAD_MAX`, which no `DECODE`
returns, is refused like every oversized operand (10_state R20, 93 U23; DEDUCED, notes/assumptions/9.md). -/
def execParse (d c : List Byte) (s : State) : Host.Outcome State Fault Refusal :=
  issue s fun s => s.ensure (d.length ≤ s.cfg.payloadMax && c.length ≤ s.cfg.payloadMax) .illegalOperand fun s =>
    s.finish (.packet (parsePacket s.sig d c))

/-- `CFG_ID type, id` (44_codec R215): the last call wins. -/
def execCfgId (devType id0 id1 id2 : Byte) (s : State) : Host.Outcome State Fault Refusal :=
  issue s fun s => ({ s with ident := some ⟨devType, id0, id1, id2⟩ }).finish .done

end Sys2Proof.Machine
end

