-- ==== Sys2Proof/Machine/Driver.lean ====
section
/-! DEFINITION. Driver.lean: the ten register driver operations (41_driver_ops): each issued, checked, and begun; what
follows a transaction is the sequencer's. -/

namespace Sys2Proof.Machine

/-- `RESET`'s pulse list: SELECT or DESELECT with no exchange, each with its delay (41_driver R130). -/
def State.pulses : List (Bool × Nat) → State → State
  | [], s => s
  | (level, delay) :: rest, s => State.pulses rest ((if level then s.select else s.deselect).pause delay)

/-- `RESET` (41_driver R130): the pulse list, the reset strobe, the settling delay. It resets the chip, not the block
(70_reset R291). -/
def execReset (s : State) : Host.Outcome State Fault Refusal :=
  issue s fun s => (s.pulses s.cfg.rstSeq).beginStrobe .chipReset s.cfg.sReset

/-- `STROBE code` (41_driver R132). -/
def execStrobe (code : Byte) (s : State) : Host.Outcome State Fault Refusal :=
  issue s fun s => s.ensure (legalStrobe code.toNat) .illegalAccess fun s => s.beginStrobe .strobe (field6 code)

/-- `WRITE_REG addr, value` (41_driver R133). -/
def execWriteReg (addr value : Byte) (s : State) : Host.Outcome State Fault Refusal :=
  issue s fun s => s.ensure (legalWrite s.cfg addr.toNat) .illegalAccess fun s =>
    s.beginTxn .write (wrsBytes (field6 addr) value)

/-- `WRITE_BURST addr, v` (41_driver R140): no transaction for zero bytes. -/
def execWriteBurst (addr : Byte) (v : List Byte) (s : State) : Host.Outcome State Fault Refusal :=
  issue s fun s => s.ensure (v.length ≤ s.cfg.burstMax) .illegalOperand fun s =>
    s.ensure (legalBurst s.cfg addr.toNat v.length) .illegalAccess fun s =>
      if v = [] then s.finish .done else s.beginTxn .write (wrbBytes (field6 addr) v)

/-- `READ_REG addr, kind` (41_driver R134): kind 0 the configuration space, kind 1 the status space, through the arbiter
for `SYNC_SET`. -/
def execReadReg (addr : Byte) (kind : Bool) (s : State) : Host.Outcome State Fault Refusal :=
  issue s fun s =>
    if kind then
      s.ensure (legalReadStat addr.toNat) .illegalAccess fun s =>
        if inSyncSet s.cfg (field6 addr) then s.beginArbiter .readReg (field6 addr)
        else s.beginTxn .readOne (rdstatBytes (field6 addr))
    else
      s.ensure (legalReadCfg addr.toNat) .illegalAccess fun s => s.beginTxn .readOne (rdsBytes (field6 addr))

/-- `READ_MED3 addr` (41_driver R135): status space only. -/
def execReadMed3 (addr : Byte) (s : State) : Host.Outcome State Fault Refusal :=
  issue s fun s => s.ensure (legalReadStat addr.toNat) .illegalAccess fun s => s.beginMedian .readMed3 (field6 addr)

/-- `READ_BURST addr, n` (41_driver R136): no transaction for zero bytes. -/
def execReadBurst (addr : Byte) (n : Nat) (s : State) : Host.Outcome State Fault Refusal :=
  issue s fun s => s.ensure (n ≤ s.cfg.burstMax) .illegalOperand fun s =>
    s.ensure (legalBurst s.cfg addr.toNat n) .illegalAccess fun s =>
      if n = 0 then s.finish (.bytes []) else s.beginTxn .readMany (rdbBytes (field6 addr) n)

/-- `RECEIVE_FIFO max_len` (41_driver R137): occupancy first, then radio state. -/
def execReceiveFifo (maxLen : Nat) (s : State) : Host.Outcome State Fault Refusal :=
  issue s fun s => s.ensure (maxLen ≤ s.cfg.burstMax) .illegalOperand fun s =>
    s.beginArbiter (.rxOcc maxLen) s.cfg.aRxbytes

/-- `TRANSMIT_FIFO B` (41_driver R138). -/
def execTransmitFifo (b : List Byte) (s : State) : Host.Outcome State Fault Refusal :=
  issue s fun s => s.ensure (1 ≤ b.length && b.length ≤ s.cfg.wireMax) .illegalOperand fun s =>
    s.beginStrobe (.txFirstIdle b) s.cfg.sIdle

/-- `STATUS_DECODE` (41_driver R139): the fields of the latched `STATUS`, which must hold a value. -/
def execStatusDecode (s : State) : Host.Outcome State Fault Refusal :=
  issue s fun s =>
    match s.status with
    | some v => s.finish (statusFields s.cfg.stateTable v)
    | none => s.raise .illegalOperand

end Sys2Proof.Machine
end

