-- ==== Sys2Proof/Machine/Dispatch.lean ====
section
/-! DEFINITION. Dispatch.lean: one arm per instruction. -/

namespace Sys2Proof.Machine

def exec (i : Instr) (s : State) : Host.Outcome State Fault Refusal :=
  match i with
  | .reset => Sys2Proof.Machine.execReset s
  | .strobe code => Sys2Proof.Machine.execStrobe code s
  | .writeReg addr value => Sys2Proof.Machine.execWriteReg addr value s
  | .writeBurst addr v => Sys2Proof.Machine.execWriteBurst addr v s
  | .readReg addr kind => Sys2Proof.Machine.execReadReg addr kind s
  | .readMed3 addr => Sys2Proof.Machine.execReadMed3 addr s
  | .readBurst addr n => Sys2Proof.Machine.execReadBurst addr n s
  | .receiveFifo maxLen => Sys2Proof.Machine.execReceiveFifo maxLen s
  | .transmitFifo b => Sys2Proof.Machine.execTransmitFifo b s
  | .statusDecode => Sys2Proof.Machine.execStatusDecode s
  | .encode p => Sys2Proof.Machine.execEncode p s
  | .decode w => Sys2Proof.Machine.execDecode w s
  | .declen l => Sys2Proof.Machine.execDeclen l s
  | .csumGen b => Sys2Proof.Machine.execCsumGen b s
  | .csumChk b => Sys2Proof.Machine.execCsumChk b s
  | .chkCmp d c => Sys2Proof.Machine.execChkCmp d c s
  | .findCmd b => Sys2Proof.Machine.execFindCmd b s
  | .buildPayload cmd ctr => Sys2Proof.Machine.execBuildPayload cmd ctr s
  | .buildFrame p => Sys2Proof.Machine.execBuildFrame p s
  | .parse d c => Sys2Proof.Machine.execParse d c s
  | .cfgId devType id0 id1 id2 => Sys2Proof.Machine.execCfgId devType id0 id1 id2 s
  | .hdrStrobe code => Sys2Proof.Machine.execHdrStrobe code s
  | .hdrWrs addr v => Sys2Proof.Machine.execHdrWrs addr v s
  | .hdrWrb addr v => Sys2Proof.Machine.execHdrWrb addr v s
  | .hdrRds addr => Sys2Proof.Machine.execHdrRds addr s
  | .hdrRdstat addr => Sys2Proof.Machine.execHdrRdstat addr s
  | .hdrRdb addr n => Sys2Proof.Machine.execHdrRdb addr n s

end Sys2Proof.Machine
end

