-- ==== Sys2Proof/Machine/Session.lean ====
section
/-! DEFINITION. Session.lean: the host, the Radio Session Controller: its sequences SEND, enter_receive_mode and POLL as
moves between operations (45_host_session). -/

namespace Sys2Proof.Machine

/-- `SEND_REPEAT` (45_host R239): LEAVE (code 1) 30 times, the others 3 times. -/
def sendRepeat (cmd : BitVec 4) : Nat := if cmd = Command.code .leave then 30 else 3

/-- `SEND_GAP`, microseconds (45_host R239): LEAVE 4 ms, the others 40 ms. -/
def sendGap (cmd : BitVec 4) : Nat := if cmd = Command.code .leave then 4000 else 40000

/-- A `Cfg` address or strobe code as an operand. -/
def operand8 (a : Addr) : Byte := a.setWidth 8

/-- `WRITE_REG a, v` for one write of a register list, for a frame of `frameLen` bytes (45_host R231, R235); a length above
255 is cut to the byte the register holds (DESIGN CHOICE, notes/assumptions/7.md). -/
def ProfileWrite.instr (c : Cfg) (frameLen : Nat) : ProfileWrite → Instr
  | .reg a v => .writeReg a v
  | .packetLength => .writeReg (operand8 c.aPktlen) (BitVec.ofNat 8 frameLen)
  | .sync0 => .writeReg (operand8 c.aSync0) c.syncWord0
  | .sync1 => .writeReg (operand8 c.aSync1) c.syncWord1

/-- The writes of a register list, in its order. -/
def profileWrites (c : Cfg) (frameLen : Nat) (l : List ProfileWrite) : List Instr := l.map (ProfileWrite.instr c frameLen)

/-- `enter_transmit_mode(frame_len)` (45_host R231). No `RESET` precedes it: "not stated" there and in 91 N37, the model
issues none (DESIGN CHOICE, notes/assumptions/7.md). -/
def enterTransmitOps (c : Cfg) (frameLen : Nat) : List Instr :=
  profileWrites c frameLen c.txProfile1 ++ [.writeBurst (operand8 c.aPatable) c.txPatable, .strobe (operand8 c.sTx)]
    ++ profileWrites c frameLen c.txProfile2

/-- `enter_receive_mode` up to the calibration strobe (45_host R235). -/
def enterReceiveOps (c : Cfg) : List Instr :=
  [.reset, .writeBurst (operand8 c.aPatable) c.rxPatable] ++ profileWrites c rxPktLen c.rxProfile
    ++ [.strobe (operand8 c.sCal)]

/-- The re-arm writes (45_host R238). -/
def rearmOps (c : Cfg) : List Instr := profileWrites c rxPktLen c.rxRearm

/-- `READ_REG(A_MARCSTATE, 1)` (45_host R235). -/
def readMarc (c : Cfg) : Instr := .readReg (operand8 c.aMarcstate) true

/-- The host issues an operation and awaits its result at a position of its sequence. -/
def State.issueFor (t : SessionTask) (i : Instr) (s : State) : Host.Outcome State Fault Refusal :=
  exec i { s with task := some t }

/-- The host's sequence ends. -/
def State.endSession (r : SessionResult) (s : State) : Host.Outcome State Fault Refusal :=
  .next { s with task := none, sessionResult := some r }

/-- `SEND`: the operations of `enter_transmit_mode` still to issue, then the first transmission (45_host R233). -/
def State.sendEntering (cmd : BitVec 4) (f : List Byte) (left : List Instr) (s : State) :
    Host.Outcome State Fault Refusal :=
  match left with
  | i :: rest => s.issueFor (.sendEnter cmd f rest) i
  | [] => ({ s with mode := .transmitReady }).issueFor (.sendTransmit cmd f 1) (.transmitFifo f)

/-- `enter_receive_mode`: the operations still to issue, then the calibration poll (45_host R235). -/
def State.receiveEntering (left : List Instr) (s : State) : Host.Outcome State Fault Refusal :=
  match left with
  | i :: rest => s.issueFor (.rxSetup rest) i
  | [] => s.issueFor .rxCalibrate (readMarc s.cfg)

/-- `enter_receive_mode`: the test `until m = MARC_RX` (45_host R235). -/
def State.rxUntil (retried : Bool) (m : Byte) (s : State) : Host.Outcome State Fault Refusal :=
  if m = s.cfg.marcRx then ({ s with mode := .receiving }).endSession .receiving
  else s.issueFor (.rxWait retried) (readMarc s.cfg)

/-- `POLL`: the re-arm writes still to issue, then the packet is returned (45_host R237, R238). -/
def State.pollRearming (p : Option Packet) (left : List Instr) (s : State) : Host.Outcome State Fault Refusal :=
  match left with
  | i :: rest => s.issueFor (.pollRearm p rest) i
  | [] => s.endSession (.polled p)

/-- The host begins a sequence. `POLL` needs Receiving (45_host R241, 93 U9). Who starts `enter_receive_mode` and in which
`MODE` is not stated (R230, R240): here it is a call like the others, taken in every `MODE`, and so is `SEND` (DESIGN
CHOICE, notes/assumptions/7.md). -/
def State.beginSession (call : SessionCall) (s : State) : Host.Outcome State Fault Refusal :=
  let s := { s with sessionResult := none }
  match call with
  | .send cmd => s.issueFor (.sendPayload cmd) (.buildPayload cmd s.ctr)
  | .enterReceive => s.receiveEntering (enterReceiveOps s.cfg)
  | .poll => if s.mode = .receiving then s.issueFor .pollReceive (.receiveFifo rxPktLen) else .refused .pollOutsideReceiving

/-- `exit_transmit_mode` begins (45_host R232). -/
def State.exitTransmit (s : State) : Host.Outcome State Fault Refusal :=
  s.issueFor .sendExit (.strobe (operand8 s.cfg.sPwd))

/-- The host goes on with the result `r` of the operation it awaited (45_host R233, R235, R237).
A fault is no signal to the caller (60_exceptions R276): `SEND` goes on with its operations, which a stored fault refuses
(R269), and returns nothing, "silently succeeding-looking" (R233); without a payload or a frame it has none left but those of
`exit_transmit_mode` (DESIGN CHOICE, notes/assumptions/7.md). `POLL` yields no packet (R237). `enter_receive_mode` is given
up, `MODE` as it was (DESIGN CHOICE, notes/assumptions/7.md). -/
def State.sessionStep (t : SessionTask) (r : OpResult) (s : State) : Host.Outcome State Fault Refusal :=
  match t, r with
  | .sendPayload cmd, .bytes p => ({ s with ctr := s.ctr + 1 }).issueFor (.sendFrame cmd) (.buildFrame p)
  | .sendPayload _, .faulted _ => ({ s with ctr := s.ctr + 1 }).exitTransmit
  | .sendFrame cmd, .bytes f => s.sendEntering cmd f (enterTransmitOps s.cfg f.length)
  | .sendFrame _, .faulted _ => s.exitTransmit
  | .sendEnter cmd f left, _ => s.sendEntering cmd f left
  | .sendTransmit cmd f k, _ =>
    if k < sendRepeat cmd then (s.pause (sendGap cmd)).issueFor (.sendTransmit cmd f (k + 1)) (.transmitFifo f)
    else s.exitTransmit
  | .sendExit, _ => ({ s with mode := .idle }).endSession .sent
  | .rxSetup _, .faulted code | .rxCalibrate, .faulted code | .rxStart, .faulted code | .rxWait _, .faulted code
  | .rxRetryFlush, .faulted code | .rxRetryStart, .faulted code => s.endSession (.aborted code)
  | .pollReceive, .faulted _ | .pollDecode, .faulted _ | .pollParse, .faulted _ | .pollRearm _ _, .faulted _ =>
    s.endSession (.polled none)
  | .rxSetup left, _ => s.receiveEntering left
  | .rxCalibrate, .byte v =>
    if radioState s.cfg v = s.cfg.marcIdle then s.issueFor .rxStart (.strobe (operand8 s.cfg.sRx))
    else s.issueFor .rxCalibrate (readMarc s.cfg)
  | .rxStart, _ => s.issueFor (.rxWait false) (readMarc s.cfg)
  | .rxWait retried, .byte v =>
    if radioState s.cfg v = s.cfg.marcRxovf ∧ retried = false then
      s.issueFor .rxRetryFlush (.strobe (operand8 s.cfg.sFlushRx))
    else s.rxUntil retried (radioState s.cfg v)
  | .rxRetryFlush, _ => s.issueFor .rxRetryStart (.strobe (operand8 s.cfg.sRx))
  | .rxRetryStart, _ => s.rxUntil true s.cfg.marcRxovf
  | .pollReceive, .bytes w =>
    if w.length = rxPktLen then s.issueFor .pollDecode (.decode w) else s.endSession (.polled none)
  | .pollDecode, .decoded d c => s.issueFor .pollParse (.parse d c)
  | .pollParse, .packet p => s.pollRearming p (rearmOps s.cfg)
  | .pollRearm p left, _ => s.pollRearming p left
  | .sendPayload _, _ | .sendFrame _, _ | .rxCalibrate, _ | .rxWait _, _ | .pollReceive, _ | .pollDecode, _
  | .pollParse, _ => .refused .sessionOutOfStep

/-- The host's move while one of its sequences runs and no operation is in flight. -/
def State.sessionMove (t : SessionTask) (s : State) : Host.Outcome State Fault Refusal :=
  match s.result with
  | some r => s.sessionStep t r
  | none => .refused .sessionOutOfStep

end Sys2Proof.Machine
end

