-- ==== Sys2Proof/Machine/Port.lean ====
section
/-! DEFINITION. Port.lean: taking the next request the host has lined up: a word for the operation port, a session call
or a block reset (10_state R25; 60_exceptions R267; 70_reset R290). -/

namespace Sys2Proof.Machine

/-- A word that is no instruction: ILLEGAL_OP for a code outside the table (60_exceptions R267), ILLEGAL_ACCESS for a
bracket outside the table of 30_encoding R82 (R95 b), both behind a stored fault (60_exceptions R274). Operands of another
number or type than the operation has are ILLEGAL_OPERAND (DESIGN CHOICE, notes/assumptions/5.md). -/
def State.rejectWord (e : DecodeError) (s : State) : Host.Outcome State Fault Refusal :=
  match e with
  | .illegalOp _ => issue s (State.raise .illegalOp)
  | .outsideTable _ => issue s (State.raise .illegalAccess)
  | .operandShape _ => issue s (State.raise .illegalOperand)

/-- A word: decoded, and run. -/
def State.runWord (w : PortWord) (s : State) : Host.Outcome State Fault Refusal :=
  match decode w with
  | .ok i => exec i s
  | .error e => s.rejectWord e

/-- Block reset of a live block (70_reset R290, R292): every element at its reset value, the configuration kept; what the
host has lined up and what the chip will answer are outside the block (notes/assumptions/11.md). -/
def State.blockReset (s : State) : State :=
  { State.fresh s.cfg with pending := s.pending, inbox := s.inbox, drawn := s.drawn }

/-- The host's running sequence makes a move; without one nothing happens. -/
def State.goOn (s : State) : Host.Outcome State Fault Refusal :=
  match s.task with
  | some t => s.sessionMove t
  | none => .next s

/-- The machine between operations. Block reset is taken "at any time when `BUSY = 0`" (70_reset R290), and ends a running
sequence; a word or a session call waits for its end (45_host R241). -/
def State.portMove (s : State) : Host.Outcome State Fault Refusal :=
  match s.pending with
  | .blockReset :: rest => .next ({ s with pending := rest }).blockReset
  | .goOn :: rest => ({ s with pending := rest }).goOn
  | .word w :: rest => if s.task.isSome then s.goOn else ({ s with pending := rest }).runWord w
  | .session c :: rest => if s.task.isSome then s.goOn else ({ s with pending := rest }).beginSession c
  | [] => s.goOn

/-- The given word first in line, with nothing in flight before it. -/
def State.lineUp (w : PortWord) (s : State) : State :=
  { s with csn := false, busy := false, seq := none, task := none, pending := .word w :: s.pending }

end Sys2Proof.Machine
end

