-- ==== Sys2Proof/Machine/Step.lean ====
section
/-! DEFINITION. Step.lean: one step of the machine: block, chip and host take turns. -/

namespace Sys2Proof.Machine

/-- One step. A block whose `Cfg` breaks a constraint does not exist (60_exceptions R265). While an operation waits, the
chip answers (10_state R40); otherwise the host goes on with its sequence or gives the next request (10_state R25). -/
def step (s : State) : Host.Outcome State Fault Refusal :=
  if s.cfg.valid then
    if s.busy then .next s.chipMove else s.portMove
  else .fault .configMismatch

/-- The state with the instruction of bits `w` lined up so that the very next step runs it
(notes/assumptions/5.md). -/
def State.withFetchWord (s : State) (nbits w : Nat) : State := s.lineUp (tableWord nbits w)

end Sys2Proof.Machine
end

