-- ==== Sys2Proof/Safety.lean ====
section
/-! DEFINITION. Safety.lean: the terms claims use: a block ready for an operation, chip answers that serve a list of
transactions, the state such a run ends in, the bracket and legality rules the block keeps on its pins, and the
coherence invariant. -/

namespace Sys2Proof.Machine

/-- No operation in flight and no fault stored: an operation issued now is accepted (10_state R25, 60_exceptions R269). -/
abbrev State.accepting (s : State) : Prop := s.busy = false ∧ s.fault = .none

/-- The request first in line neither resets the block nor makes way for a move of the host's sequence: a sequence that runs
goes on by itself. -/
abbrev State.undisturbed (s : State) : Prop := ∀ rest, s.pending ≠ .blockReset :: rest ∧ s.pending ≠ .goOn :: rest

/-! ### Answers of the chip -/

/-- The counted attempts do not pass `POLL_LIMIT` (60_exceptions R263). -/
abbrev withinLimit (c : Cfg) (attempts : Nat) : Prop := passesLimit c.pollLimit attempts = false

/-- The answers `l` serve one transaction whose answer bytes are `bytesIn` and leave `rest`: samples of `RDY` = 0 within
`POLL_LIMIT`, one of `RDY` = 1, and one byte for each byte sent, none reported as failed (40_bus R112 to R114). -/
def Served (c : Cfg) (bytesIn : List Byte) (l rest : List BusSample) : Prop :=
  ∃ (waits : List BusSample) (r : BusSample) (data : List BusSample),
    l = waits ++ r :: (data ++ rest) ∧ (∀ x ∈ waits, x.rdy = false) ∧ withinLimit c waits.length ∧ r.rdy = true
    ∧ (∀ x ∈ data, x.fail = false) ∧ data.map BusSample.data = bytesIn

/-- The answers `l` serve a list of transactions in order, and leave `rest`. -/
def ServedAll (c : Cfg) : List (List Byte) → List BusSample → List BusSample → Prop
  | [], l, rest => l = rest
  | a :: as, l, rest => ∃ mid, Served c a l mid ∧ ServedAll c as mid rest

/-- A transaction as an observer of the bus sees it: bytes sent, bytes received. -/
abbrev Exchanged := List Byte × List Byte

/-- What one transaction leaves in the trace, newest first: select, ready, exchange, deselect (40_bus R114). -/
def txnTrace (x : Exchanged) : List BusEvent := [.deselect, .exchange x.1 x.2, .ready, .select]

/-- What a list of transactions, first done first, leaves in the trace, newest first. -/
def logTrace : List Exchanged → List BusEvent
  | [] => []
  | x :: xs => logTrace xs ++ txnTrace x

/-- The status byte a list of transactions leaves latched: the first byte answered in the last one (10_state R23). -/
def logStatus (before : Option Byte) (log : List Exchanged) : Option Byte :=
  match log.getLast? with
  | some x => some (x.2.headD 0)
  | none => before

/-- The state after an operation that did the transactions of `log`, left `rest` of the answers, and returned `r`:
nothing else is changed. -/
def State.served (s : State) (log : List Exchanged) (rest : List BusSample) (r : OpResult) : State :=
  { s with
    csn := false
    status := logStatus s.status log
    busy := false
    seq := none
    result := some r
    inbox := rest
    trace := logTrace log ++ s.trace }

/-- The state after an operation that touched no bus and returned `r`: nothing else is changed. -/
def State.answered (s : State) (r : OpResult) : State := { s with busy := false, seq := none, result := some r }

/-- The state after an operation that did the transactions of `log` without fault and then raised `code`, with the chip
deselected: nothing else is changed (60_exceptions R268). -/
def State.faultedAfter (s : State) (log : List Exchanged) (rest : List BusSample) (code : FaultCode) : State :=
  { s with
    csn := false
    status := logStatus s.status log
    fault := code
    busy := false
    seq := none
    result := some (.faulted code)
    inbox := rest
    trace := logTrace log ++ s.trace }

/-- What `RESET`'s pulse list leaves in the trace, newest first (41_driver R130). -/
def pulseTrace : List (Bool × Nat) → List BusEvent
  | [] => []
  | (level, delay) :: rest => pulseTrace rest ++ [.wait delay, if level then .select else .deselect]

/-- An address legal for one access code, as a reader of 30_encoding R82 lists them: 0x00..0x2E, `A_FIFO`, `A_PATABLE`. -/
abbrev WritableAddr (c : Cfg) (a : Nat) : Prop := a ≤ 0x2E ∨ a = c.aFifo.toNat ∨ a = c.aPatable.toNat

/-- A start address legal for a burst of `n`: 0x00..0x2E with `a + n - 1 <= 0x2E`, `A_FIFO`, `A_PATABLE` (30_encoding R82;
the subtraction is an integer one). -/
abbrev BurstAddr (c : Cfg) (a n : Nat) : Prop :=
  (a ≤ 0x2E ∧ a + n ≤ 0x2E + 1) ∨ a = c.aFifo.toNat ∨ a = c.aPatable.toNat

/-- The table of 30_encoding R82, row by row: STROBE, WRS, WRB, RDS, RDSTAT, RDB, with the bytes after the header. -/
def InTable (c : Cfg) (bytes : List Byte) : Prop :=
  (∃ a : Addr, 0x30 ≤ a.toNat ∧ a.toNat ≤ 0x3D ∧ bytes = [header false false a])
  ∨ (∃ (a : Addr) (v : Byte), WritableAddr c a.toNat ∧ bytes = [header false false a, v])
  ∨ (∃ (a : Addr) (v : List Byte), BurstAddr c a.toNat v.length ∧ bytes = header false true a :: v)
  ∨ (∃ a : Addr, a.toNat ≤ 0x2E ∧ bytes = [header true false a, 0x00])
  ∨ (∃ a : Addr, 0x30 ≤ a.toNat ∧ a.toNat ≤ 0x3D ∧ bytes = [header true true a, 0x00])
  ∨ ∃ (a : Addr) (n : Nat), BurstAddr c a.toNat n ∧ bytes = header true true a :: List.replicate n 0x00

/-- The constraints of 00_scope R10, of 20_memory R54 on 0x2F (notes/assumptions/12.md), of 41_driver R130 on `RST_SEQ`, and
of 45_host R231, R235, R238 on the host's lists (notes/assumptions/8.md). -/
structure MeetsConstraints (c : Cfg) : Prop where
  fifoSize : 6 ≤ c.fifoSize
  statusAddresses : ∀ a ∈ [c.aFreqest, c.aMarcstate, c.aRxbytes, c.aTxbytes, c.aWortime1, c.aWortime0],
    0x30 ≤ a.toNat ∧ a.toNat ≤ 0x3D
  strobeCodes : ∀ a ∈ [c.sReset, c.sCal, c.sRx, c.sTx, c.sIdle, c.sPwd, c.sFlushRx, c.sFlushTx],
    0x30 ≤ a.toNat ∧ a.toNat ≤ 0x3D
  streamAddresses : ∀ a ∈ [c.aFifo, c.aPatable], 0x2E < a.toNat ∧ ¬ (0x30 ≤ a.toNat ∧ a.toNat ≤ 0x3D) ∧ a.toNat ≠ 0x2F
  payloadMax : 12 ≤ c.payloadMax
  wireMax : 63 ≤ c.wireMax
  burstMax : c.fifoSize ≤ c.burstMax
  pulses : (c.rstSeq.map Prod.fst).IsChain (· ≠ ·) ∧ (c.rstSeq.map Prod.fst).getLast? ≠ some true
  txLength : .packetLength ∈ c.txProfile2
  rxWrites : .packetLength ∈ c.rxProfile ∧ .sync0 ∈ c.rxProfile ∧ .sync1 ∈ c.rxProfile
  rearmWrites : .packetLength ∈ c.rxRearm ∧ .sync0 ∈ c.rxRearm ∧ .sync1 ∈ c.rxRearm

/-! ### Reads as logs of transactions -/

/-- `RDSTAT(a)` answered with status byte `r.1` and data byte `r.2`. -/
def statRead (a : Addr) (r : Byte × Byte) : Exchanged := (rdstatBytes a, [r.1, r.2])

/-- A strobe answered with a status byte. -/
def strobed (code : Addr) (st : Byte) : Exchanged := (strobeBytes code, [st])

/-- Read values at whose last one the arbiter stops: it equals its predecessor, and no earlier one does
(41_driver R134). -/
def arbiterStops : List Byte → Bool
  | [] => false
  | [_] => false
  | [a, b] => a == b
  | a :: b :: c :: rest => a != b && arbiterStops (b :: c :: rest)

/-- An arbitrated read of `a` that returns `v`: reads up to the first agreement, the disagreements within `POLL_LIMIT`
(41_driver R134, 60_exceptions R263). -/
def ArbiterLog (c : Cfg) (a : Addr) (v : Byte) (log : List Exchanged) : Prop :=
  ∃ reads : List (Byte × Byte), log = reads.map (statRead a) ∧ arbiterStops (reads.map Prod.snd) = true
    ∧ (reads.map Prod.snd).getLast? = some v ∧ withinLimit c (reads.length - 2)

/-- A median read of `a` that returns `v`: exactly three reads (41_driver R135). -/
def MedianLog (a : Addr) (v : Byte) (log : List Exchanged) : Prop :=
  ∃ r0 r1 r2 : Byte × Byte, log = [statRead a r0, statRead a r1, statRead a r2] ∧ v = median3 r0.2 r1.2 r2.2

/-- The refill writes of `bytes`, one bracket each (41_driver R138). -/
def refillLog (c : Cfg) (bytes : List Byte) (answers : List (Byte × Byte)) : List Exchanged :=
  List.zipWith (fun v a => (wrsBytes c.aFifo v, [a.1, a.2])) bytes answers

/-- The streaming loop of `TRANSMIT_FIFO` from `idx`, with `attempts` counted in the current occupancy wait
(41_driver R138). `CHUNK` is `FIFO_SIZE - 3`, the occupancy `v & OCC_MASK`. -/
inductive StreamLog (c : Cfg) (b : List Byte) : Nat → Nat → List Exchanged → Prop where
  /-- `idx = n`: the loop ends. -/
  | done {idx attempts : Nat} : b.length ≤ idx → StreamLog c b idx attempts []
  /-- Occupancy above `CHUNK - 2`: poll again. -/
  | again {idx attempts : Nat} {v : Byte} {reads log : List Exchanged} : idx < b.length →
      MedianLog c.aTxbytes v reads → c.fifoSize - 3 - 2 < (v &&& c.occMask).toNat → withinLimit c (attempts + 1) →
      StreamLog c b idx (attempts + 1) log → StreamLog c b idx attempts (reads ++ log)
  /-- Occupancy at most `CHUNK - 2`: write the smaller of the rest and the room. -/
  | refill {idx attempts len : Nat} {v : Byte} {reads log : List Exchanged} {answers : List (Byte × Byte)} :
      idx < b.length → MedianLog c.aTxbytes v reads → (v &&& c.occMask).toNat ≤ c.fifoSize - 3 - 2 →
      len = min (b.length - idx) (c.fifoSize - 3 - (v &&& c.occMask).toNat) → answers.length = len →
      StreamLog c b (idx + len) 0 log →
      StreamLog c b idx attempts (reads ++ refillLog c ((b.drop idx).take len) answers ++ log)

/-- The drain poll's end: "until m = MARC_IDLE or m = MARC_TXUNF", `m = v & MARC_MASK` (41_driver R138). -/
abbrev DrainedBy (c : Cfg) (v : Byte) : Prop := v &&& c.marcMask = c.marcIdle ∨ v &&& c.marcMask = c.marcTxunf

/-- The drain poll of `TRANSMIT_FIFO`, with `attempts` counted (41_driver R138). -/
inductive DrainLog (c : Cfg) : Nat → List Exchanged → Prop where
  | done {attempts : Nat} {v : Byte} {reads : List Exchanged} : ArbiterLog c c.aMarcstate v reads →
      DrainedBy c v → DrainLog c attempts reads
  | again {attempts : Nat} {v : Byte} {reads log : List Exchanged} : ArbiterLog c c.aMarcstate v reads →
      ¬ DrainedBy c v → withinLimit c (attempts + 1) → DrainLog c (attempts + 1) log →
      DrainLog c attempts (reads ++ log)

/-! ### What the block keeps on its pins -/

/-- Where the bus stands between two events. -/
inductive BusPhase where
  | idle | selected | readied | exchanged
  deriving DecidableEq, Repr

/-- The order of hazard H-2 (70_reset R295): select, ready, exchange, deselect; bare pulses and waits only where no header
is under way (41_driver R130, 40_bus R110, R111). -/
def BusPhase.after (p : BusPhase) (e : BusEvent) : Option BusPhase :=
  match p, e with
  | .idle, .select => some .selected
  | .idle, .deselect => some .idle
  | .idle, .wait _ => some .idle
  | .selected, .wait _ => some .selected
  | .selected, .deselect => some .idle
  | .selected, .ready => some .readied
  | .readied, .exchange _ _ => some .exchanged
  | .readied, .exchangeFailed _ => some .exchanged
  | .exchanged, .deselect => some .idle
  | .idle, _ | .selected, _ | .readied, _ | .exchanged, _ => none

/-- The phase after a trace (newest first), if the trace keeps the order. -/
def busPhase : List BusEvent → Option BusPhase
  | [] => some .idle
  | e :: older => (busPhase older).bind (BusPhase.after · e)

/-- The phase the state is in. -/
def State.phase (s : State) : BusPhase :=
  match s.seq with
  | none => .idle
  | some q => if q.txn.ready then .readied else .selected

/-- Every bracket so far kept the order of H-2, and the trace agrees with the state. -/
def Bracketed (s : State) : Prop := busPhase s.trace = some s.phase

/-- Bytes the table of 30_encoding R82 lets a bracket send, with `1 <= n <= BURST_MAX` for bursts (20_memory R63). -/
def legalBytes (c : Cfg) (bytesOut : List Byte) : Bool :=
  match decodeBus bytesOut with
  | .ok (.hdrStrobe a) => legalStrobe a.toNat
  | .ok (.hdrWrs a _) => legalWrite c a.toNat
  | .ok (.hdrWrb a v) => legalBurst c a.toNat v.length && 1 ≤ v.length && v.length ≤ c.burstMax
  | .ok (.hdrRds a) => legalReadCfg a.toNat
  | .ok (.hdrRdstat a) => legalReadStat a.toNat
  | .ok (.hdrRdb a n) => legalBurst c a.toNat n && 1 ≤ n && n ≤ c.burstMax
  | _ => false

/-- The bytes sent by an event. -/
def BusEvent.sent : BusEvent → Option (List Byte)
  | .exchange o _ => some o
  | .exchangeFailed o => some o
  | .select | .deselect | .ready | .wait _ => none

/-- What a position must satisfy for the headers still to come to be legal. -/
def ArbUse.sound (c : Cfg) : ArbUse → Bool
  | .rxOcc maxLen | .rxMarc maxLen _ => maxLen ≤ c.burstMax
  | .txUnf b => !b.isEmpty
  | .readReg | .txDrain _ => true

/-- As `ArbUse.sound`, for a position. -/
def Pos.sound (c : Cfg) : Pos → Bool
  | .arbFirst use a | .arbNext use a _ _ => inStatRange a.toNat && use.sound c
  | .med0 _ a | .med1 _ a _ | .med2 _ a _ _ => inStatRange a.toNat
  | .txFirstIdle b | .txUnfIdle b | .txFlush b | .txIdle b => !b.isEmpty
  | .strobe | .write | .readOne | .readMany | .chipReset | .rxData | .rxIdle _ | .rxFlush _ | .rxRestart _
  | .txLoad _ _ | .txStart _ _ | .txByte _ _ _ _ => true

/-- Hazard H-1 (70_reset R294): nothing outside the table of 30_encoding R82 was ever sent, or is being sent. -/
def OnlyLegalSent (s : State) : Prop :=
  (∀ e ∈ s.trace, ∀ o, e.sent = some o → legalBytes s.cfg o = true)
  ∧ ∀ q, s.seq = some q → legalBytes s.cfg q.txn.bytesOut = true ∧ q.pos.sound s.cfg = true

/-- The data bytes written to the FIFO address in a trace (newest first), in the order they were sent. -/
def fifoWritten (c : Cfg) : List BusEvent → List Byte
  | [] => []
  | .exchange (h :: data) _ :: older =>
    fifoWritten c older ++ (if hdrRw h = false ∧ hdrAddr h = c.aFifo then data else [])
  | _ :: older => fifoWritten c older

/-! ### What `TRANSMIT_FIFO` has still to write -/

/-- The bytes of its operand that `TRANSMIT_FIFO` has still to write at a position of its procedure (41_driver R138); none
where the position belongs to another operation. -/
def Pos.toWrite : Pos → Option (List Byte)
  | .arbFirst (.txUnf b) _ | .arbNext (.txUnf b) _ _ _ => some b
  | .arbFirst (.txDrain _) _ | .arbNext (.txDrain _) _ _ _ => some []
  | .med0 (.txOcc b idx _) _ | .med1 (.txOcc b idx _) _ _ | .med2 (.txOcc b idx _) _ _ _ => some (b.drop idx)
  | .txFirstIdle b | .txUnfIdle b | .txFlush b | .txIdle b | .txLoad b _ => some b
  | .txStart b idx => some (b.drop idx)
  | .txByte b idx _ i => some (b.drop (idx + i))
  | .arbFirst .readReg _ | .arbFirst (.rxOcc _) _ | .arbFirst (.rxMarc _ _) _ | .arbNext .readReg _ _ _
  | .arbNext (.rxOcc _) _ _ _ | .arbNext (.rxMarc _ _) _ _ _ | .med0 .readMed3 _ | .med1 .readMed3 _ _
  | .med2 .readMed3 _ _ _ | .strobe | .write | .readOne | .readMany | .chipReset | .rxData | .rxIdle _ | .rxFlush _
  | .rxRestart _ => none

/-- What is still to be written in a state; nothing when nothing is in flight. -/
def State.toWrite (s : State) : List Byte := (s.seq.bind fun q => q.pos.toWrite).getD []

/-- The bytes on the bus at a position of `TRANSMIT_FIFO` are those its procedure sends there, and its indices lie inside
the operand (41_driver R138). -/
def Pos.txSound (c : Cfg) (bytesOut : List Byte) : Pos → Prop
  | .arbFirst (.txUnf _) a | .arbNext (.txUnf _) a _ _ | .arbFirst (.txDrain _) a | .arbNext (.txDrain _) a _ _ =>
    bytesOut = rdstatBytes a
  | .med0 (.txOcc b idx _) a | .med1 (.txOcc b idx _) a _ | .med2 (.txOcc b idx _) a _ _ =>
    bytesOut = rdstatBytes a ∧ idx < b.length
  | .txFirstIdle _ | .txUnfIdle _ | .txIdle _ => bytesOut = strobeBytes c.sIdle
  | .txFlush _ => bytesOut = strobeBytes c.sFlushTx
  | .txLoad b len => bytesOut = wrbBytes c.aFifo (b.take len)
  | .txStart _ _ => bytesOut = strobeBytes c.sTx
  | .txByte b idx len i => bytesOut = wrsBytes c.aFifo (b.getD (idx + i) 0) ∧ i < len ∧ idx + len ≤ b.length
  | .arbFirst .readReg _ | .arbFirst (.rxOcc _) _ | .arbFirst (.rxMarc _ _) _ | .arbNext .readReg _ _ _
  | .arbNext (.rxOcc _) _ _ _ | .arbNext (.rxMarc _ _) _ _ _ | .med0 .readMed3 _ | .med1 .readMed3 _ _
  | .med2 .readMed3 _ _ _ | .strobe | .write | .readOne | .readMany | .chipReset | .rxData | .rxIdle _ | .rxFlush _
  | .rxRestart _ => True

/-- `Pos.txSound` of the transaction in flight. -/
def TxSound (s : State) : Prop := ∀ q, s.seq = some q → q.pos.txSound s.cfg q.txn.bytesOut

/-! ### Coherence -/

/-- A transaction in flight: not all bytes are in, none before ready, its attempts within `POLL_LIMIT`. -/
def Txn.sound (c : Cfg) (t : Txn) : Prop :=
  t.got.length < t.bytesOut.length ∧ (t.ready = false → t.got = []) ∧ withinLimit c t.attempts

/-- The elements of the block agree: `SIG` is the one constructed (10_state R27); `BUSY` and the chip select tell of a
sequencer state (10_state R25, 40_bus R121); a stored fault leaves nothing in flight (60_exceptions R268, R269);
CONFIG_MISMATCH is never in `FAULT` (60_exceptions R265). -/
def Coherent (s : State) : Prop :=
  s.cfg.valid = true ∧ s.sig = s.cfg.sig ∧ s.busy = s.seq.isSome ∧ s.csn = s.seq.isSome
  ∧ (s.fault ≠ .none → s.busy = false) ∧ s.fault ≠ .configMismatch
  ∧ ∀ q, s.seq = some q → q.txn.sound s.cfg

end Sys2Proof.Machine
end

