-- ==== Sys2Proof/Certificates/Slice0/Obligations.lean ====
section
/-! DEFINITION. Obligations.lean: the statements for the provers. Statements hold for every configuration: `Cfg` is part of
the state they quantify over. -/

open Sys2Proof Sys2Proof.Machine

/-! ### Encoding -/

/-- 30_encoding R83: header assembly and what each transaction sends. -/
def Obligations.HeaderAssembly : Prop :=
  (∀ rw burst : Bool, ∀ a : Addr,
    (header rw burst a).toNat = 128 * rw.toNat + 64 * burst.toNat + a.toNat
    ∧ hdrRw (header rw burst a) = rw ∧ hdrBurst (header rw burst a) = burst ∧ hdrAddr (header rw burst a) = a)
  ∧ ∀ a : Addr, ∀ v : Byte, ∀ vs : List Byte, ∀ n : Nat,
    strobeBytes a = [a.setWidth 8]
    ∧ wrsBytes a v = [a.setWidth 8, v]
    ∧ wrbBytes a vs = (0x40 ||| a.setWidth 8) :: vs
    ∧ rdsBytes a = [0x80 ||| a.setWidth 8, 0x00]
    ∧ rdstatBytes a = [0xC0 ||| a.setWidth 8, 0x00]
    ∧ rdbBytes a n = (0xC0 ||| a.setWidth 8) :: List.replicate n 0x00

/-- 30_encoding R94 and 95_test_vectors H1: words written out from the spec decode to the instruction they stand for. -/
def Obligations.WordsFromTheSpecDecode : Prop :=
  decode (.op 0b00000 []) = .ok .reset
  ∧ decode (.op 0b00100 [.byte 0x35, .bit true]) = .ok (.readReg 0x35 true)
  ∧ decode (.op 0b01000 [.bytes [1, 2]]) = .ok (.transmitFifo [1, 2])
  ∧ decode (.op 0b10111 [.cmd 2, .byte 5]) = .ok (.buildPayload 2 5)
  ∧ decode (.op 0b11010 [.byte 22, .byte 116, .byte 233, .byte 94]) = .ok (.cfgId 22 116 233 94)
  ∧ decode (.bus [0x30]) = .ok (.hdrStrobe 0x30)
  ∧ decode (.bus [0x06, 0x3F]) = .ok (.hdrWrs 0x06 0x3F)
  ∧ decode (.bus [0x7E, 0x6F, 0x26]) = .ok (.hdrWrb 0x3E [0x6F, 0x26])
  ∧ decode (.bus [0xAE, 0x00]) = .ok (.hdrRds 0x2E)
  ∧ decode (.bus [0xFD, 0x00]) = .ok (.hdrRdstat 0x3D)
  ∧ decode (.bus [0xC0, 0x00, 0x00, 0x00]) = .ok (.hdrRdb 0x00 3)

/-- Decoding the word of any well-formed instruction gives the instruction back, every operand included. -/
def Obligations.DecodeOfEncode : Prop := ∀ i : Instr, i.wf = true → decode (encode i) = .ok i

/-- Each word that decodes has one meaning, is well formed, and is the word the encoder gives it. -/
def Obligations.EncodeOfDecode : Prop :=
  ∀ (w : PortWord) (i : Instr), decode w = .ok i → i.wf = true ∧ encode i = w

/-- The step runs the decoded instruction: the request is taken from the line, nothing else changes before. -/
def Obligations.StepRunsTheDecodedInstruction : Prop :=
  ∀ (s : State) (w : PortWord) (i : Instr) (rest : List Request), s.cfg.valid = true → s.busy = false → s.task = none →
    s.pending = .word w :: rest → decode w = .ok i → step s = exec i { s with pending := rest }

/-- 60_exceptions R267, 30_encoding R82, R95 (a), (b): a code outside the table raises ILLEGAL_OP; a bracket that is none of
the table of R82, its addresses included, raises ILLEGAL_ACCESS; a code of the table with operands no instruction of it
has raises ILLEGAL_OPERAND. Nothing is sent. The form of words, that a raw bracket can be given, and the last clause are
the model's choice (notes/assumptions/5.md). -/
def Obligations.WordsOutsideTheTableRaise : Prop :=
  (∀ (s : State) (code : BitVec 5) (args : List Operand) (rest : List Request),
    Coherent s → s.accepting → s.task = none → s.pending = .word (.op code args) :: rest →
    ((0x0A ≤ code.toNat ∧ code.toNat ≤ 0x0F ∨ 0x1B ≤ code.toNat) →
      step s = .next (({ s with pending := rest } : State).faultedAfter [] s.inbox .illegalOp))
    ∧ (¬ (0x0A ≤ code.toNat ∧ code.toNat ≤ 0x0F ∨ 0x1B ≤ code.toNat) → (∀ i, encode i ≠ .op code args) →
      step s = .next (({ s with pending := rest } : State).faultedAfter [] s.inbox .illegalOperand)))
  ∧ ∀ (s : State) (bytes : List Byte) (rest : List Request),
    Coherent s → s.accepting → s.task = none → s.pending = .word (.bus bytes) :: rest → ¬ InTable s.cfg bytes →
    bytes.length ≤ s.cfg.burstMax + 1 →
    step s = .next (({ s with pending := rest } : State).faultedAfter [] s.inbox .illegalAccess)

/-! ### Register driver: completion, result and frame -/

/-- 41_driver R130, 70_reset R291: `RESET` pulses, sends the reset strobe, waits, and changes nothing else of the block. -/
def Obligations.ResetCompletes : Prop :=
  ∀ (s : State) (st : Byte) (rest : List BusSample), s.accepting → Served s.cfg [st] s.inbox rest →
    exec .reset s = .next { s.served [([s.cfg.sReset.setWidth 8], [st])] rest .done with
      trace := .wait s.cfg.tSettle :: (txnTrace ([s.cfg.sReset.setWidth 8], [st]) ++ pulseTrace s.cfg.rstSeq ++ s.trace) }

/-- 41_driver R132, 40_bus R115: a strobe sends its code and returns the status byte. -/
def Obligations.StrobeCompletes : Prop :=
  ∀ (s : State) (st : Byte) (rest : List BusSample), s.accepting → Served s.cfg [st] s.inbox rest →
    (∀ code : Byte, 0x30 ≤ code.toNat → code.toNat ≤ 0x3D →
      exec (.strobe code) s = .next (s.served [([code], [st])] rest (.byte st)))
    ∧ ∀ a : Addr, 0x30 ≤ a.toNat → a.toNat ≤ 0x3D →
      exec (.hdrStrobe a) s = .next (s.served [([a.setWidth 8], [st])] rest (.byte st))

/-- 41_driver R133, 40_bus R116: a register write sends address and value in one bracket; the second status byte is
dropped. -/
def Obligations.WriteRegCompletes : Prop :=
  ∀ (s : State) (st st' v : Byte) (rest : List BusSample), s.accepting → Served s.cfg [st, st'] s.inbox rest →
    (∀ addr : Byte, WritableAddr s.cfg addr.toNat →
      exec (.writeReg addr v) s = .next (s.served [([addr, v], [st, st'])] rest .done))
    ∧ ∀ a : Addr, WritableAddr s.cfg a.toNat →
      exec (.hdrWrs a v) s = .next (s.served [([a.setWidth 8, v], [st, st'])] rest .done)

/-- 41_driver R140, 40_bus R117: a burst of at least one byte is one bracket. -/
def Obligations.WriteBurstCompletes : Prop :=
  ∀ (s : State) (st : Byte) (sts v : List Byte) (rest : List BusSample), s.accepting →
    Served s.cfg (st :: sts) s.inbox rest → sts.length = v.length → v ≠ [] → v.length ≤ s.cfg.burstMax →
    (∀ addr : Byte, BurstAddr s.cfg addr.toNat v.length →
      exec (.writeBurst addr v) s = .next (s.served [((0x40 ||| addr) :: v, st :: sts)] rest .done))
    ∧ ∀ a : Addr, BurstAddr s.cfg a.toNat v.length →
      exec (.hdrWrb a v) s = .next (s.served [((0x40 ||| a.setWidth 8) :: v, st :: sts)] rest .done)

/-- 41_driver R140, R136 (decision D35): a burst of zero bytes issues no transaction and succeeds; a bracket of a burst
header alone does the same, which is the model's choice (notes/assumptions/5.md). -/
def Obligations.EmptyBurstsTouchNoBus : Prop :=
  ∀ s : State, s.accepting →
    (∀ addr : Byte, BurstAddr s.cfg addr.toNat 0 →
      exec (.writeBurst addr []) s = .next (s.answered .done)
      ∧ exec (.readBurst addr 0) s = .next (s.answered (.bytes [])))
    ∧ ∀ a : Addr, BurstAddr s.cfg a.toNat 0 →
      exec (.hdrWrb a []) s = .next (s.answered .done)
      ∧ exec (.hdrRdb a 0) s = .next (s.answered (.bytes []))

/-- 41_driver R134, 40_bus R118, R119: a configuration register, and a status register outside `SYNC_SET`, is read
once; so is every `RDS` and `RDSTAT`. -/
def Obligations.PlainReadCompletes : Prop :=
  ∀ (s : State) (st v : Byte) (rest : List BusSample), s.accepting → Served s.cfg [st, v] s.inbox rest →
    (∀ addr : Byte, addr.toNat ≤ 0x2E →
      exec (.readReg addr false) s = .next (s.served [([0x80 ||| addr, 0x00], [st, v])] rest (.byte v)))
    ∧ (∀ addr : Byte, 0x30 ≤ addr.toNat → addr.toNat ≤ 0x3D → addr.setWidth 6 ∉ s.cfg.syncSet →
      exec (.readReg addr true) s = .next (s.served [([0xC0 ||| addr, 0x00], [st, v])] rest (.byte v)))
    ∧ (∀ a : Addr, a.toNat ≤ 0x2E →
      exec (.hdrRds a) s = .next (s.served [([0x80 ||| a.setWidth 8, 0x00], [st, v])] rest (.byte v)))
    ∧ ∀ a : Addr, 0x30 ≤ a.toNat → a.toNat ≤ 0x3D →
      exec (.hdrRdstat a) s = .next (s.served [([0xC0 ||| a.setWidth 8, 0x00], [st, v])] rest (.byte v))

/-- 41_driver R134, 70_reset R296: a register of `SYNC_SET` is read until two consecutive reads agree, and that value is
returned. -/
def Obligations.ArbiterReturnsFirstAgreement : Prop :=
  ∀ (s : State) (addr v : Byte) (log : List Exchanged) (rest : List BusSample), s.accepting →
    0x30 ≤ addr.toNat → addr.toNat ≤ 0x3D → addr.setWidth 6 ∈ s.cfg.syncSet →
    ArbiterLog s.cfg (addr.setWidth 6) v log → ServedAll s.cfg (log.map Prod.snd) s.inbox rest →
    exec (.readReg addr true) s = .next (s.served log rest (.byte v))

/-- 41_driver R134, R138, 60_exceptions R263: with `POLL_LIMIT` = `l` the three polling loops on reads raise
DEVICE_UNRESPONSIVE: the arbiter after `l + 1` reads that each differ from the one before; the occupancy wait of
`TRANSMIT_FIFO` at the occupancy above `CHUNK - 2` that follows `l` such ones; its drain poll at the radio state that is
neither idle nor TX-underflow and follows `l` such ones. -/
def Obligations.PollLoopsGiveUpAtTheLimit : Prop :=
  (∀ (s : State) (addr : Byte) (reads : List (Byte × Byte)) (l : Nat) (rest : List BusSample), s.accepting →
    0x30 ≤ addr.toNat → addr.toNat ≤ 0x3D → addr.setWidth 6 ∈ s.cfg.syncSet → s.cfg.pollLimit = some l →
    reads.length = l + 2 → (reads.map Prod.snd).IsChain (· ≠ ·) →
    ServedAll s.cfg (reads.map fun r => [r.1, r.2]) s.inbox rest →
    exec (.readReg addr true) s =
      .next (s.faultedAfter (reads.map (statRead (addr.setWidth 6))) rest .deviceUnresponsive))
  ∧ ∀ (s : State) (pos : Pos) (txn : Txn) (x : BusSample) (rest : List BusSample) (l : Nat) (st v : Byte),
    Coherent s → s.seq = some ⟨pos, txn⟩ → s.inbox = x :: rest → s.cfg.pollLimit = some l → txn.ready = true →
    x.fail = false → txn.got ++ [x.data] = [st, v] → txn.bytesOut.length = 2 →
    (match pos with
      | .med2 (.txOcc _ _ attempts) _ r0 r1 =>
        attempts = l ∧ s.cfg.fifoSize - 3 - 2 < (median3 r0 r1 v &&& s.cfg.occMask).toNat
      | .arbNext use _ vPrev attempts =>
        attempts = l ∧ v ≠ vPrev ∨ use = .txDrain l ∧ v = vPrev ∧ ¬ DrainedBy s.cfg v
      | _ => False) →
    step s = .next { s with
      csn := false, status := some st, fault := .deviceUnresponsive, busy := false, seq := none
      result := some (.faulted .deviceUnresponsive), inbox := rest
      trace := .deselect :: .exchange txn.bytesOut [st, v] :: s.trace }

/-- 41_driver R135: three reads, never more, and the middle value. -/
def Obligations.MedianReadCompletes : Prop :=
  ∀ (s : State) (addr : Byte) (r0 r1 r2 : Byte × Byte) (rest : List BusSample), s.accepting →
    0x30 ≤ addr.toNat → addr.toNat ≤ 0x3D →
    ServedAll s.cfg [[r0.1, r0.2], [r1.1, r1.2], [r2.1, r2.2]] s.inbox rest →
    exec (.readMed3 addr) s = .next (s.served
      [statRead (addr.setWidth 6) r0, statRead (addr.setWidth 6) r1, statRead (addr.setWidth 6) r2] rest
      (.byte (median3 r0.2 r1.2 r2.2)))

/-- 41_driver R135: the median is the middle one of the three bytes after sorting, unsigned. -/
def Obligations.MedianIsTheMiddleValue : Prop :=
  ∀ r0 r1 r2 : Byte, [r0.toNat, r1.toNat, r2.toNat].Perm
      [min r0.toNat (min r1.toNat r2.toNat), (median3 r0 r1 r2).toNat, max r0.toNat (max r1.toNat r2.toNat)]
    ∧ min r0.toNat (min r1.toNat r2.toNat) ≤ (median3 r0 r1 r2).toNat
    ∧ (median3 r0 r1 r2).toNat ≤ max r0.toNat (max r1.toNat r2.toNat)

/-- 41_driver R136, 40_bus R120: a burst read of at least one byte returns the bytes after the status byte. -/
def Obligations.ReadBurstCompletes : Prop :=
  ∀ (s : State) (st : Byte) (data : List Byte) (rest : List BusSample), s.accepting →
    Served s.cfg (st :: data) s.inbox rest → data ≠ [] → data.length ≤ s.cfg.burstMax →
    (∀ addr : Byte, BurstAddr s.cfg addr.toNat data.length →
      exec (.readBurst addr data.length) s = .next
        (s.served [((0xC0 ||| addr) :: List.replicate data.length 0x00, st :: data)] rest (.bytes data)))
    ∧ ∀ a : Addr, BurstAddr s.cfg a.toNat data.length →
      exec (.hdrRdb a data.length) s = .next
        (s.served [((0xC0 ||| a.setWidth 8) :: List.replicate data.length 0x00, st :: data)] rest (.bytes data))

/-- 41_driver R137, 70_reset R300, R301: occupancy, radio state, the FIFO bytes unless the radio overflowed or nothing is
there, and on every path the strobes idle, flush-RX, RX. -/
def Obligations.ReceiveFifoCompletes : Prop :=
  ∀ (s : State) (maxLen : Nat) (o m st0 st1 st2 : Byte) (occLog marcLog dataLog : List Exchanged) (result : List Byte)
    (rest : List BusSample), s.accepting → maxLen ≤ s.cfg.burstMax →
    ArbiterLog s.cfg s.cfg.aRxbytes o occLog → ArbiterLog s.cfg s.cfg.aMarcstate m marcLog →
    (if m &&& s.cfg.marcMask = s.cfg.marcRxovf ∨ min (o &&& s.cfg.occMask).toNat maxLen = 0 then
      dataLog = [] ∧ result = []
    else
      result.length = min (o &&& s.cfg.occMask).toNat maxLen
      ∧ ∃ st, dataLog = [((0xC0 ||| s.cfg.aFifo.setWidth 8) :: List.replicate result.length 0x00, st :: result)]) →
    ServedAll s.cfg ((occLog ++ marcLog ++ dataLog
      ++ [strobed s.cfg.sIdle st0, strobed s.cfg.sFlushRx st1, strobed s.cfg.sRx st2]).map Prod.snd) s.inbox rest →
    exec (.receiveFifo maxLen) s = .next (s.served (occLog ++ marcLog ++ dataLog
      ++ [strobed s.cfg.sIdle st0, strobed s.cfg.sFlushRx st1, strobed s.cfg.sRx st2]) rest (.bytes result))

/-- 41_driver R138, 70_reset R306: the whole transmit procedure, for every frame length, every number of polls and
refill passes, and either value of the underflow flag; `CHUNK` is `FIFO_SIZE - 3`. -/
def Obligations.TransmitFifoCompletes : Prop :=
  ∀ (s : State) (b : List Byte) (t st0 st1 st2 st3 st5 : Byte) (st4 : List Byte)
    (flagLog streamLog drainLog : List Exchanged) (rest : List BusSample), s.accepting → s.cfg.valid = true →
    1 ≤ b.length → b.length ≤ s.cfg.wireMax → ArbiterLog s.cfg s.cfg.aTxbytes t flagLog →
    st4.length = min b.length (s.cfg.fifoSize - 3) + 1 →
    StreamLog s.cfg b (min b.length (s.cfg.fifoSize - 3)) 0 streamLog → DrainLog s.cfg 0 drainLog →
    let flushLog : List Exchanged := if t &&& s.cfg.txunfBit ≠ 0 then [strobed s.cfg.sIdle st1, strobed s.cfg.sFlushTx st2] else []
    let log : List Exchanged := [strobed s.cfg.sIdle st0] ++ flagLog ++ flushLog ++ [strobed s.cfg.sIdle st3]
      ++ [((0x40 ||| s.cfg.aFifo.setWidth 8) :: b.take (s.cfg.fifoSize - 3), st4)] ++ [strobed s.cfg.sTx st5]
      ++ streamLog ++ drainLog
    ServedAll s.cfg (log.map Prod.snd) s.inbox rest →
    exec (.transmitFifo b) s = .next (s.served log rest .done)

/-- 41_driver R138 (its derived properties): whatever the chip answers, in whatever steps, what `TRANSMIT_FIFO` has written
to the FIFO followed by what it has still to write is what was written before it followed by its operand, in index order,
until a fault ends it; so one that ends without fault has written exactly its operand. -/
def Obligations.TransmitWritesEveryByteInOrder : Prop :=
  (∀ (s t : State) (b : List Byte), s.accepting → s.cfg.valid = true → 1 ≤ b.length → b.length ≤ s.cfg.wireMax →
    exec (.transmitFifo b) s = .next t → t.fault = .none →
    fifoWritten s.cfg t.trace ++ t.toWrite = fifoWritten s.cfg s.trace ++ b
    ∧ (t.busy = false → t.toWrite = [] ∧ fifoWritten s.cfg t.trace = fifoWritten s.cfg s.trace ++ b))
  ∧ (∀ (s t : State) (q : Seq) (left : List Byte), Coherent s → TxSound s → s.seq = some q → q.pos.toWrite = some left →
    step s = .next t → t.fault = .none → fifoWritten t.cfg t.trace ++ t.toWrite = fifoWritten s.cfg s.trace ++ left)
  ∧ (∀ s t : State, Coherent s → TxSound s → step s = .next t → TxSound t)
  ∧ ∀ (c : Cfg) (s : State), State.construct c = .ok s → TxSound s

/-- 41_driver R139, 30_encoding R84, R85, 10_state R23: the fields of the latched status byte, the state's name being the
entry of `STATE_TABLE` for its code; without a status byte, ILLEGAL_OPERAND. -/
def Obligations.StatusDecodeReadsTheLatch : Prop :=
  ∀ s : State, s.accepting →
    (∀ v : Byte, s.status = some v →
      let t : StateTable := s.cfg.stateTable
      ∃ name : ChipState, [t.s0, t.s1, t.s2, t.s3, t.s4, t.s5, t.s6, t.s7][v.toNat / 16 % 8]? = some name
        ∧ exec .statusDecode s =
          .next (s.answered (.fields (decide (128 ≤ v.toNat)) name (BitVec.ofNat 4 (v.toNat % 16)))))
    ∧ (s.status = none → s.csn = false → exec .statusDecode s = .next (s.faultedAfter [] s.inbox .illegalOperand))

/-! ### Refusals and faults -/

/-- 41_driver R131, 70_reset R294, 60_exceptions R264: a request outside the table raises ILLEGAL_ACCESS; nothing is
sent. In a block that exists every access to 0x2F is one (20_memory R54; notes/assumptions/12.md). -/
def Obligations.IllegalAccessIsRefused : Prop :=
  (∀ (s : State) (i : Instr), s.accepting → s.csn = false → s.cfg.valid = true →
    (match i with
      | .strobe a | .writeReg a _ | .readReg a _ | .readMed3 a => a = 0x2F
      | .writeBurst a v => a = 0x2F ∧ v.length ≤ s.cfg.burstMax
      | .readBurst a n => a = 0x2F ∧ n ≤ s.cfg.burstMax
      | .hdrStrobe a | .hdrWrs a _ | .hdrRds a | .hdrRdstat a => a = 0x2F
      | .hdrWrb a v => a = 0x2F ∧ v.length ≤ s.cfg.burstMax
      | .hdrRdb a n => a = 0x2F ∧ n ≤ s.cfg.burstMax
      | _ => False) →
    exec i s = .next (s.faultedAfter [] s.inbox .illegalAccess))
  ∧ ∀ (s : State) (i : Instr), s.accepting → s.csn = false →
    (match i with
      | .strobe code => ¬ (0x30 ≤ code.toNat ∧ code.toNat ≤ 0x3D)
      | .writeReg a _ => ¬ WritableAddr s.cfg a.toNat
      | .writeBurst a v => v.length ≤ s.cfg.burstMax ∧ ¬ BurstAddr s.cfg a.toNat v.length
      | .readReg a kind => if kind then ¬ (0x30 ≤ a.toNat ∧ a.toNat ≤ 0x3D) else ¬ a.toNat ≤ 0x2E
      | .readMed3 a => ¬ (0x30 ≤ a.toNat ∧ a.toNat ≤ 0x3D)
      | .readBurst a n => n ≤ s.cfg.burstMax ∧ ¬ BurstAddr s.cfg a.toNat n
      | .hdrStrobe a => ¬ (0x30 ≤ a.toNat ∧ a.toNat ≤ 0x3D)
      | .hdrWrs a _ => ¬ WritableAddr s.cfg a.toNat
      | .hdrWrb a v => v.length ≤ s.cfg.burstMax ∧ ¬ BurstAddr s.cfg a.toNat v.length
      | .hdrRds a => ¬ a.toNat ≤ 0x2E
      | .hdrRdstat a => ¬ (0x30 ≤ a.toNat ∧ a.toNat ≤ 0x3D)
      | .hdrRdb a n => n ≤ s.cfg.burstMax ∧ ¬ BurstAddr s.cfg a.toNat n
      | _ => False) →
    exec i s = .next (s.faultedAfter [] s.inbox .illegalAccess)

/-- 60_exceptions R266, 10_state R20, R46: an operand out of range, too long, or state without value raises
ILLEGAL_OPERAND before anything else is done (a bracket's burst longer than `BURST_MAX` too: notes/assumptions/5.md; and
`PARSE` of a string no `DECODE` returns: notes/assumptions/9.md). -/
def Obligations.IllegalOperandIsRefused : Prop :=
  ∀ (s : State) (i : Instr), s.accepting → s.csn = false →
    (match i with
      | .writeBurst _ v => s.cfg.burstMax < v.length
      | .readBurst _ n => s.cfg.burstMax < n
      | .hdrWrb _ v => s.cfg.burstMax < v.length
      | .hdrRdb _ n => s.cfg.burstMax < n
      | .receiveFifo n => s.cfg.burstMax < n
      | .transmitFifo b => b = [] ∨ s.cfg.wireMax < b.length
      | .statusDecode => s.status = none
      | .encode p => s.cfg.payloadMax < p.length ∨ s.cfg.wireMax < encodedLen p.length
      | .decode w => s.cfg.wireMax < w.length ∨ s.cfg.payloadMax < declen w.length
      | .csumGen b => s.cfg.payloadMax < b.length
      | .csumChk b => b = [] ∨ s.cfg.payloadMax < b.length
      | .chkCmp d c => d.length ≠ 6 ∨ c.length ≠ 6
      | .findCmd b => b.length ≠ 6
      | .buildPayload cmd _ => 8 ≤ cmd.toNat ∨ s.ident = none
      | .buildFrame p => s.cfg.payloadMax < p.length ∨ s.cfg.wireMax < encodedLen p.length
          ∨ s.cfg.wireMax < (frame s.cfg p).length
      | .parse d c => s.cfg.payloadMax < d.length ∨ s.cfg.payloadMax < c.length
      | _ => False) →
    exec i s = .next (s.faultedAfter [] s.inbox .illegalOperand)

/-- 60_exceptions R269, R274, R275: while `FAULT` is set every operation returns the stored code and changes nothing else,
and so does every word given to the port, one outside the tables too: the stored fault comes before ILLEGAL_OP. -/
def Obligations.StoredFaultRefusesEverything : Prop :=
  (∀ (s : State) (i : Instr), s.busy = false → s.fault ≠ .none →
    exec i s = .next { s with result := some (.faulted s.fault) })
  ∧ ∀ (s : State) (w : PortWord) (rest : List Request), s.cfg.valid = true → s.busy = false → s.task = none →
    s.pending = .word w :: rest → s.fault ≠ .none →
    step s = .next { s with pending := rest, result := some (.faulted s.fault) }

/-- 10_state R25: an operation issued while `BUSY` = 1 has no step. -/
def Obligations.BusyPortTakesNothing : Prop :=
  ∀ (s : State) (i : Instr), s.busy = true → exec i s = .refused .portBusy

/-- 40_bus R112, 60_exceptions R263, R268, 95_test_vectors H6: `RDY` sampled 0 more than `POLL_LIMIT` times raises
DEVICE_UNRESPONSIVE; nothing is sent, the chip is deselected, `STATUS` is kept. From the issue of a strobe, and in every
transaction in flight. -/
def Obligations.NotReadyGivesUpAtTheLimit : Prop :=
  (∀ (s : State) (code : Byte) (waits rest : List BusSample) (l : Nat), s.accepting → 0x30 ≤ code.toNat →
    code.toNat ≤ 0x3D → s.cfg.pollLimit = some l → waits.length = l + 1 → (∀ x ∈ waits, x.rdy = false) →
    s.inbox = waits ++ rest →
    exec (.strobe code) s = .next { s.faultedAfter [] rest .deviceUnresponsive with
      trace := .deselect :: .select :: s.trace })
  ∧ ∀ (s : State) (pos : Pos) (txn : Txn) (waits rest : List BusSample) (l : Nat), Coherent s →
    s.seq = some ⟨pos, txn⟩ → txn.ready = false → s.cfg.pollLimit = some l → txn.attempts + waits.length = l + 1 →
    (∀ x ∈ waits, x.rdy = false) → s.inbox = waits ++ rest →
    step s = .next { s with
      csn := false, fault := .deviceUnresponsive, busy := false, seq := none
      result := some (.faulted .deviceUnresponsive), inbox := rest, trace := .deselect :: s.trace }

/-- 40_bus R113, 60_exceptions R261, R268: an exchange reported as failed raises TRANSPORT_FAULT; the chip is deselected and
`STATUS` is kept. From the issue of a register write, and in every transaction in flight. The report comes with one byte
of the exchange (notes/assumptions/2.md). -/
def Obligations.FailedExchangeRaisesTransportFault : Prop :=
  (∀ (s : State) (addr v : Byte) (waits data rest : List BusSample) (r bad : BusSample), s.accepting →
    WritableAddr s.cfg addr.toNat → (∀ x ∈ waits, x.rdy = false) → withinLimit s.cfg waits.length → r.rdy = true →
    (∀ x ∈ data, x.fail = false) → data.length < 2 → bad.fail = true → s.inbox = waits ++ r :: (data ++ bad :: rest) →
    exec (.writeReg addr v) s = .next { s.faultedAfter [] rest .transportFault with
      trace := .deselect :: .exchangeFailed [addr, v] :: .ready :: .select :: s.trace })
  ∧ ∀ (s : State) (pos : Pos) (txn : Txn) (data rest : List BusSample) (bad : BusSample), Coherent s →
    s.seq = some ⟨pos, txn⟩ → txn.ready = true → (∀ x ∈ data, x.fail = false) →
    txn.got.length + data.length < txn.bytesOut.length → bad.fail = true → s.inbox = data ++ bad :: rest →
    step s = .next { s with
      csn := false, fault := .transportFault, busy := false, seq := none, result := some (.faulted .transportFault)
      inbox := rest, trace := .deselect :: .exchangeFailed txn.bytesOut :: s.trace }

/-- 40_bus R112: while `RDY` is sampled 0 within `POLL_LIMIT` the operation stays in flight, selected and busy, with
nothing sent: a strobe just issued, and every transaction in flight. -/
def Obligations.OperationWaitsForReady : Prop :=
  (∀ (s : State) (code : Byte), s.accepting → 0x30 ≤ code.toNat → code.toNat ≤ 0x3D →
    (∀ x ∈ s.inbox, x.rdy = false) → withinLimit s.cfg s.inbox.length →
    exec (.strobe code) s = .next { s with
      csn := true, busy := true, result := none, inbox := [], trace := .select :: s.trace
      seq := some ⟨.strobe, ⟨[code], false, s.inbox.length, []⟩⟩ })
  ∧ ∀ (s : State) (pos : Pos) (txn : Txn), Coherent s → s.seq = some ⟨pos, txn⟩ → txn.ready = false → s.inbox ≠ [] →
    (∀ x ∈ s.inbox, x.rdy = false) → withinLimit s.cfg (txn.attempts + s.inbox.length) →
    step s = .next { s with
      inbox := [], seq := some ⟨pos, { txn with attempts := txn.attempts + s.inbox.length }⟩ }

/-! ### Packet codec -/

/-- 42_codec R160, R166, 30_encoding R92: `ENCODE` returns the wire bytes and their count `E(N)`, which is 0 for `N` = 0,
`5 * N / 2` for even and `(5 * N + 1) / 2` for odd `N`. -/
def Obligations.EncodeCompletes : Prop :=
  (∀ n : Nat, encodedLen n = if n = 0 then 0 else if n % 2 = 0 then 5 * n / 2 else (5 * n + 1) / 2)
  ∧ ∀ (s : State) (p : List Byte), s.accepting → p.length ≤ s.cfg.payloadMax →
    let e : Nat := if p.length = 0 then 0 else if p.length % 2 = 0 then 5 * p.length / 2 else (5 * p.length + 1) / 2
    e ≤ s.cfg.wireMax →
    exec (.encode p) s = .next (s.answered (.wire (encodeWire s.cfg.sel0 p) e)) ∧ (encodeWire s.cfg.sel0 p).length = e

/-- 42_codec R168: the encoder machine gives the closed form, bit by bit. -/
def Obligations.EncoderMeetsClosedForm : Prop :=
  ∀ (sel0 : Fin 8) (p : List Byte) (k : Nat), k < 8 * encodedLen p.length →
    bit ((encodeWire sel0 p).getD (k / 8) 0) (7 - k % 8) =
      if k % 10 < 8 ∧ k < 20 * p.length - 2 then
        bit (p.getD (k / 20) 0) ((sel0.val + (4 * (k / 10) + k % 10 / 2) % 8) % 8) ^^ decide (k % 2 = 1)
      else decide (k % 2 = 0)

/-- 42_codec R167 (b), conflict C9: every output byte has exactly four 1 bits. -/
def Obligations.EveryWireByteIsBalanced : Prop :=
  ∀ (sel0 : Fin 8) (p : List Byte) (w : Byte), w ∈ encodeWire sel0 p →
    ((List.range 8).filter fun i => bit w i).length = 4

/-- 43_codec R180, R184: `DECODE` returns `K(L)` data bytes and as many check bytes, and `DECLEN` returns `K(L)`. -/
def Obligations.DecodeCompletes : Prop :=
  ∀ (s : State) (w : List Byte), s.accepting → w.length ≤ s.cfg.wireMax → declen w.length ≤ s.cfg.payloadMax →
    exec (.decode w) s = .next (s.answered (.decoded (decodeWire s.cfg.sel0 w).1 (decodeWire s.cfg.sel0 w).2))
    ∧ (decodeWire s.cfg.sel0 w).1.length = declen w.length ∧ (decodeWire s.cfg.sel0 w).2.length = declen w.length

/-- 43_codec R184, 30_encoding R92: `K(L)`, and `K(RX_SKIP + E(N)) = N`. -/
def Obligations.DeclenCompletes : Prop :=
  (∀ (s : State) (l : Nat), s.accepting → exec (.declen l) s = .next (s.answered (.length
    (if l < 2 then 0 else 2 * ((l - 2) / 5) + if 3 ≤ (l - 2) % 5 then 1 else 0))))
  ∧ ∀ n : Nat, declen (2 + encodedLen n) = n

/-- 43_codec R188: the decoder machine gives the closed form. -/
def Obligations.DecoderMeetsClosedForm : Prop :=
  ∀ (sel0 : Fin 8) (w : List Byte) (n t : Nat), n < declen w.length → t < 8 →
    let q := 8 * n + t
    let k := 2 * q + 2 * (q / 4)
    bit ((decodeWire sel0 w).1.getD n 0) ((sel0.val + t) % 8) = streamBit w k
    ∧ bit ((decodeWire sel0 w).2.getD n 0) ((sel0.val + t) % 8) = !streamBit w (k + 1)

/-- 43_codec R186: decoding an encoded payload behind any two bytes gives it back, as data and as check bytes; bytes
appended behind it leave these first result bytes as they are, a clause the rule marks as derived from R185 and R182. -/
def Obligations.CodecRoundTrip : Prop :=
  ∀ (sel0 : Fin 8) (x y : Byte) (p : List Byte), decodeWire sel0 (x :: y :: encodeWire sel0 p) = (p, p)
    ∧ ∀ tail : List Byte, (decodeWire sel0 (x :: y :: encodeWire sel0 p ++ tail)).1.take p.length = p
      ∧ (decodeWire sel0 (x :: y :: encodeWire sel0 p ++ tail)).2.take p.length = p

/-- 44_codec R212, 43_codec R186: a built frame decodes to its payload for a receiver whose chip delivers exactly
`RX_SKIP` bytes before the encoded part, whatever follows it. Among the configurations, those whose `SYNC_WORD` meets the
rule's constraint are exactly those in which `SYNC_WORD` stands in the frame 4 bytes before the encoded part, so that the
bytes after it are what such a chip delivers; they decode to the payload. -/
def Obligations.BuiltFrameDecodes : Prop :=
  ∀ (c : Cfg) (p tail : List Byte),
    (2 ≤ c.preamble.length + c.syncMarker.length →
      let w := (frame c p).drop (c.preamble.length + c.syncMarker.length - 2) ++ tail
      (decodeWire c.sel0 w).1.take p.length = p ∧ (decodeWire c.sel0 w).2.take p.length = p)
    ∧ (c.SyncWordFits ↔ ∃ before delivered : List Byte,
      before.length + 4 = c.preamble.length + c.syncMarker.length
      ∧ frame c p ++ tail = before ++ c.syncWord0 :: c.syncWord1 :: delivered)
    ∧ ∀ before delivered : List Byte, before.length + 4 = c.preamble.length + c.syncMarker.length →
      frame c p ++ tail = before ++ c.syncWord0 :: c.syncWord1 :: delivered →
      (decodeWire c.sel0 delivered).1.take p.length = p ∧ (decodeWire c.sel0 delivered).2.take p.length = p

/-- 44_codec R200, R201: the generator returns the negated sum modulo 256; the validator says whether the last byte is the
checksum of those before it, which is whether the sum of all bytes is 0 modulo 256; too many bytes, and nothing to
validate, are ILLEGAL_OPERAND. -/
def Obligations.ChecksumCompletes : Prop :=
  ∀ (s : State) (b : List Byte), s.accepting →
    (b.length ≤ s.cfg.payloadMax → exec (.csumGen b) s =
      .next (s.answered (.byte (BitVec.ofNat 8 ((256 - (b.map BitVec.toNat).sum % 256) % 256)))))
    ∧ (b ≠ [] → b.length ≤ s.cfg.payloadMax → exec (.csumChk b) s =
      .next (s.answered (.flag (decide ((b.map BitVec.toNat).sum % 256 = 0)))))
    ∧ (∀ v : Byte, b.length < s.cfg.payloadMax → exec (.csumChk (b ++ [v])) s = .next (s.answered (.flag
      (decide (v.toNat = (256 - (b.map BitVec.toNat).sum % 256) % 256)))))
    ∧ (s.csn = false → s.cfg.payloadMax < b.length →
      exec (.csumGen b) s = .next (s.faultedAfter [] s.inbox .illegalOperand))
    ∧ (s.csn = false → (b = [] ∨ s.cfg.payloadMax < b.length) →
      exec (.csumChk b) s = .next (s.faultedAfter [] s.inbox .illegalOperand))

/-- 44_codec R202 (b): changing any one byte of a string whose checksum is right makes it wrong. -/
def Obligations.OneChangedByteFailsTheChecksum : Prop :=
  ∀ (b : List Byte) (i : Nat) (v : Byte), i < b.length → v ≠ b.getD i 0 → csumOk b = true → csumOk (b.set i v) = false

/-- 44_codec R205: true exactly when every one of the six bytes equals its check byte; operands of another length are
ILLEGAL_OPERAND. -/
def Obligations.CheckBytesCompare : Prop :=
  ∀ (s : State) (d c : List Byte), s.accepting →
    (d.length = 6 → c.length = 6 → ∃ ok : Bool, exec (.chkCmp d c) s = .next (s.answered (.flag ok))
      ∧ (ok = true ↔ ∀ i, i < 6 → d.getD i 0 = c.getD i 0))
    ∧ (s.csn = false → (d.length ≠ 6 ∨ c.length ≠ 6) →
      exec (.chkCmp d c) s = .next (s.faultedAfter [] s.inbox .illegalOperand))

/-- 44_codec R207: the first command in code order, as 30_encoding R93 numbers them, whose row of `SIG` (10_state R27) ends
in the last two bytes, and UNKNOWN if there is none. -/
def Obligations.FindCommandFirstMatch : Prop :=
  ∀ (s : State) (b : List Byte), s.accepting → b.length = 6 →
    let rows : List (Command × Sig6) := [(.join, s.sig.join), (.leave, s.sig.leave), (.low, s.sig.low),
      (.medium, s.sig.medium), (.high, s.sig.high), (.timer1, s.sig.timer1), (.timer2, s.sig.timer2),
      (.timer3, s.sig.timer3)]
    let ends : Sig6 → Prop := fun sig => sig.b4 = b.getD 4 0 ∧ sig.b5 = b.getD 5 0
    (∀ (before behind : List (Command × Sig6)) (c : Command) (sig : Sig6), rows = before ++ (c, sig) :: behind →
      ends sig → (∀ r ∈ before, ¬ ends r.2) → exec (.findCmd b) s = .next (s.answered (.command c)))
    ∧ ((∀ r ∈ rows, ¬ ends r.2) → exec (.findCmd b) s = .next (s.answered (.command .unknown)))

/-- 44_codec R210, 30_encoding R88: the twelve bytes of a payload, the signature being the row of `SIG` (10_state R27) for
the command of that number (30_encoding R93). -/
def Obligations.PayloadLayout : Prop :=
  ∀ (s : State) (cmd : BitVec 4) (ctr : Byte) (i : Identity) (sig : Sig6), s.accepting → s.ident = some i →
    (cmd, sig) ∈ [(0, s.sig.join), (1, s.sig.leave), (2, s.sig.low), (3, s.sig.medium), (4, s.sig.high),
      (5, s.sig.timer1), (6, s.sig.timer2), (7, s.sig.timer3)] →
    exec (.buildPayload cmd ctr) s = .next (s.answered (.bytes
      [i.devType, i.dev0, i.dev1, i.dev2, ctr, sig.b0, sig.b1, sig.b2, sig.b3, sig.b4, sig.b5,
        checksum [i.devType, i.dev0, i.dev1, i.dev2, ctr, sig.b0, sig.b1, sig.b2, sig.b3, sig.b4, sig.b5]]))

/-- 44_codec R211, 30_encoding R90: the parts of a frame in order; a payload `ENCODE` does not take, and a frame longer than
`WIRE_MAX`, are ILLEGAL_OPERAND. -/
def Obligations.FrameLayout : Prop :=
  ∀ (s : State) (p : List Byte), s.accepting →
    let len : Nat := s.cfg.preamble.length + s.cfg.syncMarker.length + encodedLen p.length + 1 + s.cfg.padCount
    (p.length ≤ s.cfg.payloadMax → encodedLen p.length ≤ s.cfg.wireMax → len ≤ s.cfg.wireMax →
      exec (.buildFrame p) s = .next (s.answered (.bytes (s.cfg.preamble ++ s.cfg.syncMarker ++ encodeWire s.cfg.sel0 p
        ++ [s.cfg.terminator] ++ List.replicate s.cfg.padCount s.cfg.padByte))))
    ∧ (s.csn = false → s.cfg.payloadMax < p.length ∨ s.cfg.wireMax < encodedLen p.length ∨ s.cfg.wireMax < len →
      exec (.buildFrame p) s = .next (s.faultedAfter [] s.inbox .illegalOperand))

/-- 44_codec R213, R209: `PARSE` of two strings within `PAYLOAD_MAX`, as those of `DECODE` are, never faults; a longer one is an
oversized operand (10_state R20), ILLEGAL_OPERAND. The two strings of `DECODE` have one length, and for others the model's
choice is that the shorter counts (notes/assumptions/9.md). -/
def Obligations.ParseReadsTheLayout : Prop :=
  ∀ (s : State) (d c : List Byte), s.accepting →
    (s.csn = false → s.cfg.payloadMax < d.length ∨ s.cfg.payloadMax < c.length →
      exec (.parse d c) s = .next (s.faultedAfter [] s.inbox .illegalOperand))
    ∧ (d.length ≤ s.cfg.payloadMax → c.length ≤ s.cfg.payloadMax → d.length < 12 ∨ c.length < 12 →
      exec (.parse d c) s = .next (s.answered (.packet none)))
    ∧ (d.length ≤ s.cfg.payloadMax → c.length ≤ s.cfg.payloadMax → 12 ≤ d.length → 12 ≤ c.length →
      ∃ p : Packet, exec (.parse d c) s = .next (s.answered (.packet (some p)))
      ∧ p.devType = d.getD 0 0 ∧ p.devId = [d.getD 1 0, d.getD 2 0, d.getD 3 0] ∧ p.counter = d.getD 4 0
      ∧ p.cmdBytes = (List.range 6).map (fun i => d.getD (5 + i) 0)
      ∧ p.chkBytes = (List.range 6).map (fun i => c.getD (5 + i) 0)
      ∧ (p.chkOk = true ↔ ∀ i, 5 ≤ i → i ≤ 10 → d.getD i 0 = c.getD i 0)
      ∧ (p.csumOk = true ↔ ((d.take 12).map BitVec.toNat).sum % 256 = 0)
      ∧ p.command = if p.chkOk then findCommand s.sig (d.getD 9 0) (d.getD 10 0) else .unknown)

/-- 44_codec R215: the identity is set, the last call wins, nothing else changes. -/
def Obligations.CfgIdSetsTheIdentity : Prop :=
  ∀ (s : State) (t i0 i1 i2 : Byte), s.accepting →
    exec (.cfgId t i0 i1 i2) s = .next { s.answered .done with ident := some ⟨t, i0, i1, i2⟩ }

/-- 44_codec R208 and R213 end to end: when the eight pairs of last signature bytes are pairwise different, a payload
built for a command and parsed from an uncorrupted reception is recognised as that command, with both flags true. -/
def Obligations.OverheardPayloadIsRecognised : Prop :=
  ∀ (t : SigTable) (i : Identity) (ctr : Byte) (c : Command) (sig : Sig6) (tail chkTail : List Byte),
    let rows : List (Command × Sig6) := [(.join, t.join), (.leave, t.leave), (.low, t.low), (.medium, t.medium),
      (.high, t.high), (.timer1, t.timer1), (.timer2, t.timer2), (.timer3, t.timer3)]
    (c, sig) ∈ rows → (∀ r ∈ rows, r.2.b4 = sig.b4 → r.2.b5 = sig.b5 → r.1 = c) →
    parsePacket t (payload i ctr sig ++ tail) (payload i ctr sig ++ chkTail) =
      some ⟨i.devType, [i.dev0, i.dev1, i.dev2], ctr, Sig6.bytes sig, Sig6.bytes sig, c, true, true⟩

/-! ### Whole-machine rules -/

/-- 70_reset R290, R292, 10_state R45, 00_scope R10: the state after construction, for every configuration that meets the
constraints; any other is refused with CONFIG_MISMATCH (60_exceptions R265), and that a state that holds one answers no
step is the model's choice (notes/assumptions/11.md). The constraints on `RST_SEQ` and the host's lists, and that neither
the FIFO nor the power table lies at 0x2F, are DEDUCED; that nothing more of the host's lists is tested is the model's
choice (notes/assumptions/8.md, 12.md). -/
def Obligations.ConstructionChecksAndResets : Prop :=
  (∀ s : State, ¬ MeetsConstraints s.cfg → step s = .fault .configMismatch)
  ∧ ∀ c : Cfg, (¬ MeetsConstraints c → State.construct c = .error .configMismatch)
    ∧ (MeetsConstraints c → ∃ s, State.construct c = .ok s ∧ s.cfg = c ∧ s.csn = false ∧ s.statusV = false
      ∧ s.fault.code = 0 ∧ s.busy = false ∧ s.idV = false ∧ s.seq = none ∧ s.ctr = 0 ∧ s.mode = .idle
      ∧ s.sig = ⟨c.openSigs.join, c.openSigs.leave, ⟨34, 241, 3, 99, 2, 4⟩, c.openSigs.medium, c.openSigs.high,
        c.openSigs.timer1, c.openSigs.timer2, c.openSigs.timer3⟩)

/-- 70_reset R290, R292: at any time when `BUSY` = 0, a sequence of the host running or not, block reset puts every element
at its reset value and clears `FAULT`; nothing is sent or taken. That it keeps the configuration, the requests and the
chip's answers is the model's choice (notes/assumptions/11.md), and so is that the record of the pins starts anew
(notes/assumptions/6.md) and that a running sequence ends (notes/assumptions/7.md). -/
def Obligations.BlockResetClearsFault : Prop :=
  ∀ (s : State) (rest : List Request), s.cfg.valid = true → s.busy = false → s.pending = .blockReset :: rest →
    ∃ t, step s = .next t ∧ t.csn = false ∧ t.status = none ∧ t.fault = .none ∧ t.busy = false ∧ t.ident = none
      ∧ t.sig = s.cfg.sig ∧ t.seq = none ∧ t.ctr = 0 ∧ t.mode = .idle ∧ t.cfg = s.cfg ∧ t.pending = rest
      ∧ t.inbox = s.inbox ∧ t.drawn = s.drawn ∧ t.trace = [] ∧ t.task = none ∧ t.sessionResult = none
      ∧ t.result = none

/-- 10_state R24, 60_exceptions R269, 70_reset R290: a stored fault is never overwritten; only a block reset that is taken
clears it. -/
def Obligations.OnlyBlockResetClearsFault : Prop :=
  ∀ s t : State, step s = .next t → s.fault ≠ .none → ¬ (s.busy = false ∧ ∃ rest, s.pending = .blockReset :: rest) →
    t.fault = s.fault

/-- 10_state R21, R26, R27, R36: no operation touches the configuration, `SIG`, the host's `CTR` and `MODE`, or what the
host has lined up; only `CFG_ID` touches the identity. In the step that issues it, and in every later one. -/
def Obligations.OperationsLeaveTheRestAlone : Prop :=
  (∀ (s t : State) (i : Instr), exec i s = .next t →
    t.cfg = s.cfg ∧ t.sig = s.sig ∧ t.ctr = s.ctr ∧ t.mode = s.mode ∧ t.task = s.task ∧ t.pending = s.pending
    ∧ t.sessionResult = s.sessionResult ∧ t.drawn = s.drawn
    ∧ ((∀ a b c d, i ≠ .cfgId a b c d) → t.ident = s.ident))
  ∧ ∀ s t : State, s.busy = true → step s = .next t →
    t.cfg = s.cfg ∧ t.sig = s.sig ∧ t.ctr = s.ctr ∧ t.mode = s.mode ∧ t.task = s.task ∧ t.pending = s.pending
    ∧ t.sessionResult = s.sessionResult ∧ t.ident = s.ident

/-- 70_reset R293 (4), 60_exceptions R271: codec operations, `STATUS_DECODE` and `CFG_ID` never touch the bus: from a
state with the chip deselected and nothing in flight they leave `CSn`, `STATUS`, the trace and the chip's answers as they
were, and complete or fault in the same step. -/
def Obligations.CodecTouchesNoBus : Prop :=
  ∀ (s t : State) (i : Instr), s.csn = false → s.seq = none →
    (match i with
      | .statusDecode | .encode _ | .decode _ | .declen _ | .csumGen _ | .csumChk _ | .chkCmp _ _ | .findCmd _
      | .buildPayload _ _ | .buildFrame _ | .parse _ _ | .cfgId _ _ _ _ => True
      | _ => False) →
    exec i s = .next t →
    t.csn = s.csn ∧ t.status = s.status ∧ t.trace = s.trace ∧ t.inbox = s.inbox ∧ t.busy = false ∧ t.seq = none
    ∧ (t.fault = s.fault ∨ s.fault = .none ∧ t.fault = .illegalOperand)

/-- 10_state R25, R27, 40_bus R121, 60_exceptions R265, R268: every step keeps the elements of the block in agreement. -/
def Obligations.CoherenceIsKept : Prop := ∀ s t : State, Coherent s → step s = .next t → Coherent t

/-- 70_reset R295 (H-2): every step keeps the bracket order select, ready, exchange, deselect on the bus. -/
def Obligations.BracketOrderIsKept : Prop :=
  ∀ s t : State, Coherent s → Bracketed s → step s = .next t → Bracketed t

/-- 70_reset R294 (H-1), 41_driver R131: every step keeps that nothing outside the table of 30_encoding R82 is sent. -/
def Obligations.OnlyLegalHeadersAreSent : Prop :=
  ∀ s t : State, Coherent s → OnlyLegalSent s → step s = .next t → OnlyLegalSent t

/-- The three invariants hold in every constructed block, and so at reset; the reset configuration has the `SYNC_WORD` of
44_codec R212. -/
def Obligations.ResetMeetsTheInvariants : Prop :=
  (∀ (c : Cfg) (s : State), State.construct c = .ok s → Coherent s ∧ Bracketed s ∧ OnlyLegalSent s)
  ∧ State.construct Cfg.profileGK = .ok State.reset
  ∧ ∃ head : List Byte, head = Cfg.profileGK.preamble ++ Cfg.profileGK.syncMarker
    ∧ Cfg.profileGK.syncWord0 = head.getD (head.length - 4) 0 ∧ Cfg.profileGK.syncWord1 = head.getD (head.length - 3) 0

/-- 10_state R40 (the model's own form: notes/assumptions/1.md, 2.md): an operation in flight with no answer given takes
exactly one free answer in a step, and the step is the one of the same state with that answer given. With answers given, a
step with more of them behind is that step followed, if the operation still waits, by one with the others; and an
instruction issued with answers given is the one issued without, followed in the same way. So an operation that draws its
answers in later steps ends as the statements about given answers say. -/
def Obligations.OperationsTakeAnswersInOrder : Prop :=
  (∀ s : State, Coherent s → s.busy = true → s.inbox = [] →
    step s = .next { ({ s with drawn := s.drawn + 1 } : State).takeSample (Config.freeSample s.drawn) with inbox := [] }
    ∧ step s = step { s with inbox := [Config.freeSample s.drawn], drawn := s.drawn + 1 })
  ∧ (∀ s : State, Coherent s → s.busy = true → s.inbox ≠ [] →
    ∃ t, step s = .next t ∧ ∀ (l : List BusSample) (n : Nat),
      let u : State := { t with inbox := t.inbox ++ l, drawn := n }
      step { s with inbox := s.inbox ++ l, drawn := n } = if t.busy = true ∧ l ≠ [] then step u else .next u)
  ∧ ∀ (s : State) (i : Instr), Coherent s → s.busy = false → s.inbox = [] →
    ∃ t, exec i s = .next t ∧ ∀ (l : List BusSample) (n : Nat),
      let u : State := { t with inbox := l, drawn := n }
      exec i { s with inbox := l, drawn := n } = if t.busy = true ∧ l ≠ [] then step u else .next u

/-! ### The host -/

/-- 45_host R234, R36: in one step `CTR` rises by one, modulo 256, when `SEND`'s `BUILD_PAYLOAD` has returned; block reset
makes it 0; nothing else changes it. That it rises when `BUILD_PAYLOAD` faulted is DEDUCED (notes/assumptions/7.md). -/
def Obligations.CounterRisesOncePerSend : Prop :=
  ∀ s t : State, step s = .next t →
    let resets : Prop := s.busy = false ∧ ∃ rest, s.pending = .blockReset :: rest
    let built : Prop := s.busy = false ∧ ¬ resets ∧ ∃ cmd, s.task = some (.sendPayload cmd)
      ∧ ((∃ p, s.result = some (.bytes p)) ∨ ∃ code, s.result = some (.faulted code))
    (built → t.ctr = s.ctr + 1) ∧ (resets → t.ctr = 0) ∧ (¬ built → ¬ resets → t.ctr = s.ctr)

/-- 45_host R231, R232, R233: `SEND` builds the payload with the counter's value before the increment, builds the frame,
runs `enter_transmit_mode` with the frame's length, transmits, and after `exit_transmit_mode` is Idle. The writes of a list
go in its order; one of part 2 is the frame's length to the packet-length register (70_reset R307). A fault does not end it:
it goes through its operations, and returns nothing (R233, 60_exceptions R276). The model's choices
(notes/assumptions/7.md): no `RESET` first; `SEND` is taken in every `MODE`; a length above 255 is cut to a byte; the power
table is written between part 1 and the strobe (DEDUCED); a `SEND` without a payload or a frame goes on with
`exit_transmit_mode`, and has counted (DEDUCED); a request to make one move is taken with the move, which is the running
sequence's whatever stands behind the request, a block reset too. That part 2 has the packet-length write is checked at
construction (DEDUCED), and no more than that is (notes/assumptions/8.md). -/
def Obligations.SendFollowsTheProcedure : Prop :=
  ∀ (s : State) (cmd : BitVec 4), s.cfg.valid = true → s.busy = false →
    (∀ n l, profileWrites s.cfg n l = l.map fun w => match w with
      | .reg a v => .writeReg a v
      | .packetLength => .writeReg (s.cfg.aPktlen.setWidth 8) (BitVec.ofNat 8 n)
      | .sync0 => .writeReg (s.cfg.aSync0.setWidth 8) s.cfg.syncWord0
      | .sync1 => .writeReg (s.cfg.aSync1.setWidth 8) s.cfg.syncWord1)
    ∧ (∀ n, .writeReg (s.cfg.aPktlen.setWidth 8) (BitVec.ofNat 8 n) ∈ profileWrites s.cfg n s.cfg.txProfile2)
    ∧ (∀ rest, s.pending = .goOn :: rest →
      (s.task = none → step s = .next { s with pending := rest })
      ∧ (s.task ≠ none → (∀ t, step { s with pending := [] } = .next t → step s = .next { t with pending := rest })
        ∧ ∀ r, step { s with pending := [] } = .refused r → step s = .refused r))
    ∧ (s.undisturbed →
      (∀ rest, s.task = none → s.pending = .session (.send cmd) :: rest →
        step s = exec (.buildPayload cmd s.ctr)
          { s with pending := rest, sessionResult := none, task := some (.sendPayload cmd) })
      ∧ (∀ p, s.task = some (.sendPayload cmd) → s.result = some (.bytes p) →
        step s = exec (.buildFrame p) { s with ctr := s.ctr + 1, task := some (.sendFrame cmd) })
      ∧ (∀ code, s.task = some (.sendPayload cmd) → s.result = some (.faulted code) →
        step s = exec (.strobe (s.cfg.sPwd.setWidth 8)) { s with ctr := s.ctr + 1, task := some .sendExit })
      ∧ (∀ code, s.task = some (.sendFrame cmd) → s.result = some (.faulted code) →
        step s = exec (.strobe (s.cfg.sPwd.setWidth 8)) { s with task := some .sendExit })
      ∧ (∀ f i more, s.task = some (.sendFrame cmd) → s.result = some (.bytes f) →
        profileWrites s.cfg f.length s.cfg.txProfile1
          ++ [.writeBurst (s.cfg.aPatable.setWidth 8) s.cfg.txPatable, .strobe (s.cfg.sTx.setWidth 8)]
          ++ profileWrites s.cfg f.length s.cfg.txProfile2 = i :: more →
        step s = exec i { s with task := some (.sendEnter cmd f more) })
      ∧ (∀ f i more r, s.task = some (.sendEnter cmd f (i :: more)) → s.result = some r →
        step s = exec i { s with task := some (.sendEnter cmd f more) })
      ∧ (∀ f r, s.task = some (.sendEnter cmd f []) → s.result = some r →
        step s = exec (.transmitFifo f) { s with mode := .transmitReady, task := some (.sendTransmit cmd f 1) })
      ∧ ∀ r, s.task = some .sendExit → s.result = some r →
        step s = .next { s with mode := .idle, task := none, sessionResult := some .sent })

/-- 45_host R233, R239: after the `k`-th transmission the same frame is sent again while `k` is below the repeat count (30
for LEAVE, 3 for the others), after the gap (4 ms for LEAVE, 40 ms for the others), whatever the transmission returned, a
fault too (R233, 60_exceptions R276); then the radio is powered down. -/
def Obligations.RetransmissionsFollowThePolicy : Prop :=
  ∀ (s : State) (cmd : BitVec 4) (f : List Byte) (k : Nat) (r : OpResult), s.cfg.valid = true → s.busy = false →
    s.undisturbed → s.task = some (.sendTransmit cmd f k) → s.result = some r →
    step s = if k < (if cmd = 1 then 30 else 3) then
        exec (.transmitFifo f) { s with
          task := some (.sendTransmit cmd f (k + 1)), trace := .wait (if cmd = 1 then 4000 else 40000) :: s.trace }
      else exec (.strobe (s.cfg.sPwd.setWidth 8)) { s with task := some .sendExit }

/-- 45_host R237, R238: in Receiving, `POLL` calls `RECEIVE_FIFO 63` (elsewhere it has no step, 93 U9); with exactly 63
bytes the host decodes them, with any other number it returns "no packet available"; a decoded frame is parsed, the
re-arm writes follow, and the packet is returned. Among the re-arm writes are packet length 63 and the two sync-word
bytes (checked at construction: DEDUCED, notes/assumptions/8.md). A fault of any of its operations yields no packet (R237,
60_exceptions R276); that a re-arm write is one of them is the model's choice (notes/assumptions/7.md). -/
def Obligations.PollFollowsTheProcedure : Prop :=
  ∀ s : State, s.cfg.valid = true → s.busy = false → s.undisturbed →
    (∀ rest, s.task = none → s.pending = .session .poll :: rest →
      step s = if s.mode = .receiving then
          exec (.receiveFifo 63) { s with pending := rest, sessionResult := none, task := some .pollReceive }
        else .refused .pollOutsideReceiving)
    ∧ (∀ w, s.task = some .pollReceive → s.result = some (.bytes w) →
      step s = if w.length = 63 then exec (.decode w) { s with task := some .pollDecode }
        else .next { s with task := none, sessionResult := some (.polled none) })
    ∧ (∀ d c, s.task = some .pollDecode → s.result = some (.decoded d c) →
      step s = exec (.parse d c) { s with task := some .pollParse })
    ∧ (∀ p i more, s.task = some .pollParse → s.result = some (.packet p) →
      profileWrites s.cfg 63 s.cfg.rxRearm = i :: more → step s = exec i { s with task := some (.pollRearm p more) })
    ∧ (.writeReg (s.cfg.aPktlen.setWidth 8) 63 ∈ profileWrites s.cfg 63 s.cfg.rxRearm
      ∧ .writeReg (s.cfg.aSync0.setWidth 8) s.cfg.syncWord0 ∈ profileWrites s.cfg 63 s.cfg.rxRearm
      ∧ .writeReg (s.cfg.aSync1.setWidth 8) s.cfg.syncWord1 ∈ profileWrites s.cfg 63 s.cfg.rxRearm)
    ∧ (∀ p i more, s.task = some (.pollRearm p (i :: more)) → s.result = some .done →
      step s = exec i { s with task := some (.pollRearm p more) })
    ∧ (∀ p, s.task = some (.pollRearm p []) → s.result = some .done →
      step s = .next { s with task := none, sessionResult := some (.polled p) })
    ∧ ∀ task code, (task = .pollReceive ∨ task = .pollDecode ∨ task = .pollParse ∨ ∃ p left, task = .pollRearm p left) →
      s.task = some task → s.result = some (.faulted code) →
      step s = .next { s with task := none, sessionResult := some (.polled none) }

/-- 45_host R235: in `enter_receive_mode` the host polls the radio state until calibration has ended, strobes into RX,
polls until RX is active, and on the first overflow flushes and strobes again. Among the profile's writes are packet length
63 and the two sync-word bytes (checked at construction: DEDUCED, notes/assumptions/8.md). That it is a call of its own,
taken in every `MODE`, and that a fault ends it with `MODE` as it was, are the model's choices (notes/assumptions/7.md). -/
def Obligations.EnterReceiveFollowsTheProcedure : Prop :=
  ∀ s : State, s.cfg.valid = true → s.busy = false → s.undisturbed →
    (.writeReg (s.cfg.aPktlen.setWidth 8) 63 ∈ profileWrites s.cfg 63 s.cfg.rxProfile
      ∧ .writeReg (s.cfg.aSync0.setWidth 8) s.cfg.syncWord0 ∈ profileWrites s.cfg 63 s.cfg.rxProfile
      ∧ .writeReg (s.cfg.aSync1.setWidth 8) s.cfg.syncWord1 ∈ profileWrites s.cfg 63 s.cfg.rxProfile)
    ∧ (∀ rest, s.task = none → s.pending = .session .enterReceive :: rest →
      step s = exec .reset { s with pending := rest, sessionResult := none, task := some (.rxSetup
        ([.writeBurst (s.cfg.aPatable.setWidth 8) s.cfg.rxPatable] ++ profileWrites s.cfg 63 s.cfg.rxProfile
          ++ [.strobe (s.cfg.sCal.setWidth 8)])) })
    ∧ (∀ i more r, s.task = some (.rxSetup (i :: more)) → s.result = some r → (∀ code, r ≠ .faulted code) →
      step s = exec i { s with task := some (.rxSetup more) })
    ∧ (∀ r, s.task = some (.rxSetup []) → s.result = some r → (∀ code, r ≠ .faulted code) →
      step s = exec (.readReg (s.cfg.aMarcstate.setWidth 8) true) { s with task := some .rxCalibrate })
    ∧ (∀ v, s.task = some .rxCalibrate → s.result = some (.byte v) →
      step s = if v &&& s.cfg.marcMask = s.cfg.marcIdle then
          exec (.strobe (s.cfg.sRx.setWidth 8)) { s with task := some .rxStart }
        else exec (.readReg (s.cfg.aMarcstate.setWidth 8) true) { s with task := some .rxCalibrate })
    ∧ (∀ st, s.task = some .rxStart → s.result = some (.byte st) →
      step s = exec (.readReg (s.cfg.aMarcstate.setWidth 8) true) { s with task := some (.rxWait false) })
    ∧ (∀ v retried, s.task = some (.rxWait retried) → s.result = some (.byte v) →
      step s = if v &&& s.cfg.marcMask = s.cfg.marcRxovf ∧ retried = false then
          exec (.strobe (s.cfg.sFlushRx.setWidth 8)) { s with task := some .rxRetryFlush }
        else if v &&& s.cfg.marcMask = s.cfg.marcRx then
          .next { s with task := none, mode := .receiving, sessionResult := some .receiving }
        else exec (.readReg (s.cfg.aMarcstate.setWidth 8) true) { s with task := some (.rxWait retried) })
    ∧ (∀ st, s.task = some .rxRetryFlush → s.result = some (.byte st) →
      step s = exec (.strobe (s.cfg.sRx.setWidth 8)) { s with task := some .rxRetryStart })
    ∧ (∀ st, s.task = some .rxRetryStart → s.result = some (.byte st) → s.cfg.marcRxovf ≠ s.cfg.marcRx →
      step s = exec (.readReg (s.cfg.aMarcstate.setWidth 8) true) { s with task := some (.rxWait true) })
    ∧ ∀ task code, ((∃ left, task = .rxSetup left) ∨ task = .rxCalibrate ∨ task = .rxStart ∨ (∃ b, task = .rxWait b)
        ∨ task = .rxRetryFlush ∨ task = .rxRetryStart) →
      s.task = some task → s.result = some (.faulted code) →
      step s = .next { s with task := none, sessionResult := some (.aborted code) }
end

