-- ==== Sys2Proof/Laws/State.lean ====
section
/-! SUPPORT. Laws/State.lean: one lemma per field per named operation over the state. -/

namespace Sys2Proof.Machine

@[simp] theorem State.emit_cfg (e : BusEvent) (s : State) : (s.emit e).cfg = s.cfg := rfl
@[simp] theorem State.emit_csn (e : BusEvent) (s : State) : (s.emit e).csn = s.csn := rfl
@[simp] theorem State.emit_status (e : BusEvent) (s : State) : (s.emit e).status = s.status := rfl
@[simp] theorem State.emit_fault (e : BusEvent) (s : State) : (s.emit e).fault = s.fault := rfl
@[simp] theorem State.emit_busy (e : BusEvent) (s : State) : (s.emit e).busy = s.busy := rfl
@[simp] theorem State.emit_ident (e : BusEvent) (s : State) : (s.emit e).ident = s.ident := rfl
@[simp] theorem State.emit_sig (e : BusEvent) (s : State) : (s.emit e).sig = s.sig := rfl
@[simp] theorem State.emit_seq (e : BusEvent) (s : State) : (s.emit e).seq = s.seq := rfl
@[simp] theorem State.emit_ctr (e : BusEvent) (s : State) : (s.emit e).ctr = s.ctr := rfl
@[simp] theorem State.emit_mode (e : BusEvent) (s : State) : (s.emit e).mode = s.mode := rfl
@[simp] theorem State.emit_task (e : BusEvent) (s : State) : (s.emit e).task = s.task := rfl
@[simp] theorem State.emit_pending (e : BusEvent) (s : State) : (s.emit e).pending = s.pending := rfl
@[simp] theorem State.emit_result (e : BusEvent) (s : State) : (s.emit e).result = s.result := rfl
@[simp] theorem State.emit_sessionResult (e : BusEvent) (s : State) : (s.emit e).sessionResult = s.sessionResult := rfl
@[simp] theorem State.emit_inbox (e : BusEvent) (s : State) : (s.emit e).inbox = s.inbox := rfl
@[simp] theorem State.emit_drawn (e : BusEvent) (s : State) : (s.emit e).drawn = s.drawn := rfl
@[simp] theorem State.emit_trace (e : BusEvent) (s : State) : (s.emit e).trace = e :: s.trace := rfl

@[simp] theorem State.select_cfg (s : State) : (s.select).cfg = s.cfg := rfl
@[simp] theorem State.select_csn (s : State) : (s.select).csn = true := rfl
@[simp] theorem State.select_status (s : State) : (s.select).status = s.status := rfl
@[simp] theorem State.select_fault (s : State) : (s.select).fault = s.fault := rfl
@[simp] theorem State.select_busy (s : State) : (s.select).busy = s.busy := rfl
@[simp] theorem State.select_ident (s : State) : (s.select).ident = s.ident := rfl
@[simp] theorem State.select_sig (s : State) : (s.select).sig = s.sig := rfl
@[simp] theorem State.select_seq (s : State) : (s.select).seq = s.seq := rfl
@[simp] theorem State.select_ctr (s : State) : (s.select).ctr = s.ctr := rfl
@[simp] theorem State.select_mode (s : State) : (s.select).mode = s.mode := rfl
@[simp] theorem State.select_task (s : State) : (s.select).task = s.task := rfl
@[simp] theorem State.select_pending (s : State) : (s.select).pending = s.pending := rfl
@[simp] theorem State.select_result (s : State) : (s.select).result = s.result := rfl
@[simp] theorem State.select_sessionResult (s : State) : (s.select).sessionResult = s.sessionResult := rfl
@[simp] theorem State.select_inbox (s : State) : (s.select).inbox = s.inbox := rfl
@[simp] theorem State.select_drawn (s : State) : (s.select).drawn = s.drawn := rfl
@[simp] theorem State.select_trace (s : State) : (s.select).trace = .select :: s.trace := rfl

@[simp] theorem State.deselect_cfg (s : State) : (s.deselect).cfg = s.cfg := rfl
@[simp] theorem State.deselect_csn (s : State) : (s.deselect).csn = false := rfl
@[simp] theorem State.deselect_status (s : State) : (s.deselect).status = s.status := rfl
@[simp] theorem State.deselect_fault (s : State) : (s.deselect).fault = s.fault := rfl
@[simp] theorem State.deselect_busy (s : State) : (s.deselect).busy = s.busy := rfl
@[simp] theorem State.deselect_ident (s : State) : (s.deselect).ident = s.ident := rfl
@[simp] theorem State.deselect_sig (s : State) : (s.deselect).sig = s.sig := rfl
@[simp] theorem State.deselect_seq (s : State) : (s.deselect).seq = s.seq := rfl
@[simp] theorem State.deselect_ctr (s : State) : (s.deselect).ctr = s.ctr := rfl
@[simp] theorem State.deselect_mode (s : State) : (s.deselect).mode = s.mode := rfl
@[simp] theorem State.deselect_task (s : State) : (s.deselect).task = s.task := rfl
@[simp] theorem State.deselect_pending (s : State) : (s.deselect).pending = s.pending := rfl
@[simp] theorem State.deselect_result (s : State) : (s.deselect).result = s.result := rfl
@[simp] theorem State.deselect_sessionResult (s : State) : (s.deselect).sessionResult = s.sessionResult := rfl
@[simp] theorem State.deselect_inbox (s : State) : (s.deselect).inbox = s.inbox := rfl
@[simp] theorem State.deselect_drawn (s : State) : (s.deselect).drawn = s.drawn := rfl
@[simp] theorem State.deselect_trace (s : State) : (s.deselect).trace = .deselect :: s.trace := rfl

@[simp] theorem State.pause_cfg (t : Nat) (s : State) : (s.pause t).cfg = s.cfg := rfl
@[simp] theorem State.pause_csn (t : Nat) (s : State) : (s.pause t).csn = s.csn := rfl
@[simp] theorem State.pause_status (t : Nat) (s : State) : (s.pause t).status = s.status := rfl
@[simp] theorem State.pause_fault (t : Nat) (s : State) : (s.pause t).fault = s.fault := rfl
@[simp] theorem State.pause_busy (t : Nat) (s : State) : (s.pause t).busy = s.busy := rfl
@[simp] theorem State.pause_ident (t : Nat) (s : State) : (s.pause t).ident = s.ident := rfl
@[simp] theorem State.pause_sig (t : Nat) (s : State) : (s.pause t).sig = s.sig := rfl
@[simp] theorem State.pause_seq (t : Nat) (s : State) : (s.pause t).seq = s.seq := rfl
@[simp] theorem State.pause_ctr (t : Nat) (s : State) : (s.pause t).ctr = s.ctr := rfl
@[simp] theorem State.pause_mode (t : Nat) (s : State) : (s.pause t).mode = s.mode := rfl
@[simp] theorem State.pause_task (t : Nat) (s : State) : (s.pause t).task = s.task := rfl
@[simp] theorem State.pause_pending (t : Nat) (s : State) : (s.pause t).pending = s.pending := rfl
@[simp] theorem State.pause_result (t : Nat) (s : State) : (s.pause t).result = s.result := rfl
@[simp] theorem State.pause_sessionResult (t : Nat) (s : State) : (s.pause t).sessionResult = s.sessionResult := rfl
@[simp] theorem State.pause_inbox (t : Nat) (s : State) : (s.pause t).inbox = s.inbox := rfl
@[simp] theorem State.pause_drawn (t : Nat) (s : State) : (s.pause t).drawn = s.drawn := rfl
@[simp] theorem State.pause_trace (t : Nat) (s : State) : (s.pause t).trace = .wait t :: s.trace := rfl

@[simp] theorem State.accept_cfg (s : State) : (s.accept).cfg = s.cfg := rfl
@[simp] theorem State.accept_csn (s : State) : (s.accept).csn = s.csn := rfl
@[simp] theorem State.accept_status (s : State) : (s.accept).status = s.status := rfl
@[simp] theorem State.accept_fault (s : State) : (s.accept).fault = s.fault := rfl
@[simp] theorem State.accept_busy (s : State) : (s.accept).busy = true := rfl
@[simp] theorem State.accept_ident (s : State) : (s.accept).ident = s.ident := rfl
@[simp] theorem State.accept_sig (s : State) : (s.accept).sig = s.sig := rfl
@[simp] theorem State.accept_seq (s : State) : (s.accept).seq = s.seq := rfl
@[simp] theorem State.accept_ctr (s : State) : (s.accept).ctr = s.ctr := rfl
@[simp] theorem State.accept_mode (s : State) : (s.accept).mode = s.mode := rfl
@[simp] theorem State.accept_task (s : State) : (s.accept).task = s.task := rfl
@[simp] theorem State.accept_pending (s : State) : (s.accept).pending = s.pending := rfl
@[simp] theorem State.accept_result (s : State) : (s.accept).result = none := rfl
@[simp] theorem State.accept_sessionResult (s : State) : (s.accept).sessionResult = s.sessionResult := rfl
@[simp] theorem State.accept_inbox (s : State) : (s.accept).inbox = s.inbox := rfl
@[simp] theorem State.accept_drawn (s : State) : (s.accept).drawn = s.drawn := rfl
@[simp] theorem State.accept_trace (s : State) : (s.accept).trace = s.trace := rfl

@[simp] theorem State.finish_cfg (r : OpResult) (s : State) : (s.finish r).cfg = s.cfg := rfl
@[simp] theorem State.finish_csn (r : OpResult) (s : State) : (s.finish r).csn = s.csn := rfl
@[simp] theorem State.finish_status (r : OpResult) (s : State) : (s.finish r).status = s.status := rfl
@[simp] theorem State.finish_fault (r : OpResult) (s : State) : (s.finish r).fault = s.fault := rfl
@[simp] theorem State.finish_busy (r : OpResult) (s : State) : (s.finish r).busy = false := rfl
@[simp] theorem State.finish_ident (r : OpResult) (s : State) : (s.finish r).ident = s.ident := rfl
@[simp] theorem State.finish_sig (r : OpResult) (s : State) : (s.finish r).sig = s.sig := rfl
@[simp] theorem State.finish_seq (r : OpResult) (s : State) : (s.finish r).seq = none := rfl
@[simp] theorem State.finish_ctr (r : OpResult) (s : State) : (s.finish r).ctr = s.ctr := rfl
@[simp] theorem State.finish_mode (r : OpResult) (s : State) : (s.finish r).mode = s.mode := rfl
@[simp] theorem State.finish_task (r : OpResult) (s : State) : (s.finish r).task = s.task := rfl
@[simp] theorem State.finish_pending (r : OpResult) (s : State) : (s.finish r).pending = s.pending := rfl
@[simp] theorem State.finish_result (r : OpResult) (s : State) : (s.finish r).result = some r := rfl
@[simp] theorem State.finish_sessionResult (r : OpResult) (s : State) : (s.finish r).sessionResult = s.sessionResult := rfl
@[simp] theorem State.finish_inbox (r : OpResult) (s : State) : (s.finish r).inbox = s.inbox := rfl
@[simp] theorem State.finish_drawn (r : OpResult) (s : State) : (s.finish r).drawn = s.drawn := rfl
@[simp] theorem State.finish_trace (r : OpResult) (s : State) : (s.finish r).trace = s.trace := rfl

@[simp] theorem State.reportStored_cfg (s : State) : (s.reportStored).cfg = s.cfg := rfl
@[simp] theorem State.reportStored_csn (s : State) : (s.reportStored).csn = s.csn := rfl
@[simp] theorem State.reportStored_status (s : State) : (s.reportStored).status = s.status := rfl
@[simp] theorem State.reportStored_fault (s : State) : (s.reportStored).fault = s.fault := rfl
@[simp] theorem State.reportStored_busy (s : State) : (s.reportStored).busy = s.busy := rfl
@[simp] theorem State.reportStored_ident (s : State) : (s.reportStored).ident = s.ident := rfl
@[simp] theorem State.reportStored_sig (s : State) : (s.reportStored).sig = s.sig := rfl
@[simp] theorem State.reportStored_seq (s : State) : (s.reportStored).seq = s.seq := rfl
@[simp] theorem State.reportStored_ctr (s : State) : (s.reportStored).ctr = s.ctr := rfl
@[simp] theorem State.reportStored_mode (s : State) : (s.reportStored).mode = s.mode := rfl
@[simp] theorem State.reportStored_task (s : State) : (s.reportStored).task = s.task := rfl
@[simp] theorem State.reportStored_pending (s : State) : (s.reportStored).pending = s.pending := rfl
@[simp] theorem State.reportStored_result (s : State) : (s.reportStored).result = some (.faulted s.fault) := rfl
@[simp] theorem State.reportStored_sessionResult (s : State) : (s.reportStored).sessionResult = s.sessionResult := rfl
@[simp] theorem State.reportStored_inbox (s : State) : (s.reportStored).inbox = s.inbox := rfl
@[simp] theorem State.reportStored_drawn (s : State) : (s.reportStored).drawn = s.drawn := rfl
@[simp] theorem State.reportStored_trace (s : State) : (s.reportStored).trace = s.trace := rfl

@[simp] theorem State.beginTxn_cfg (p : Pos) (o : List Byte) (s : State) : (s.beginTxn p o).cfg = s.cfg := rfl
@[simp] theorem State.beginTxn_csn (p : Pos) (o : List Byte) (s : State) : (s.beginTxn p o).csn = true := rfl
@[simp] theorem State.beginTxn_status (p : Pos) (o : List Byte) (s : State) : (s.beginTxn p o).status = s.status := rfl
@[simp] theorem State.beginTxn_fault (p : Pos) (o : List Byte) (s : State) : (s.beginTxn p o).fault = s.fault := rfl
@[simp] theorem State.beginTxn_busy (p : Pos) (o : List Byte) (s : State) : (s.beginTxn p o).busy = s.busy := rfl
@[simp] theorem State.beginTxn_ident (p : Pos) (o : List Byte) (s : State) : (s.beginTxn p o).ident = s.ident := rfl
@[simp] theorem State.beginTxn_sig (p : Pos) (o : List Byte) (s : State) : (s.beginTxn p o).sig = s.sig := rfl
@[simp] theorem State.beginTxn_seq (p : Pos) (o : List Byte) (s : State) : (s.beginTxn p o).seq = some ⟨p, Txn.start o⟩ := rfl
@[simp] theorem State.beginTxn_ctr (p : Pos) (o : List Byte) (s : State) : (s.beginTxn p o).ctr = s.ctr := rfl
@[simp] theorem State.beginTxn_mode (p : Pos) (o : List Byte) (s : State) : (s.beginTxn p o).mode = s.mode := rfl
@[simp] theorem State.beginTxn_task (p : Pos) (o : List Byte) (s : State) : (s.beginTxn p o).task = s.task := rfl
@[simp] theorem State.beginTxn_pending (p : Pos) (o : List Byte) (s : State) : (s.beginTxn p o).pending = s.pending := rfl
@[simp] theorem State.beginTxn_result (p : Pos) (o : List Byte) (s : State) : (s.beginTxn p o).result = s.result := rfl
@[simp] theorem State.beginTxn_sessionResult (p : Pos) (o : List Byte) (s : State) : (s.beginTxn p o).sessionResult = s.sessionResult := rfl
@[simp] theorem State.beginTxn_inbox (p : Pos) (o : List Byte) (s : State) : (s.beginTxn p o).inbox = s.inbox := rfl
@[simp] theorem State.beginTxn_drawn (p : Pos) (o : List Byte) (s : State) : (s.beginTxn p o).drawn = s.drawn := rfl
@[simp] theorem State.beginTxn_trace (p : Pos) (o : List Byte) (s : State) : (s.beginTxn p o).trace = .select :: s.trace := rfl

@[simp] theorem State.setTxn_cfg (p : Pos) (t : Txn) (s : State) : (s.setTxn p t).cfg = s.cfg := rfl
@[simp] theorem State.setTxn_csn (p : Pos) (t : Txn) (s : State) : (s.setTxn p t).csn = s.csn := rfl
@[simp] theorem State.setTxn_status (p : Pos) (t : Txn) (s : State) : (s.setTxn p t).status = s.status := rfl
@[simp] theorem State.setTxn_fault (p : Pos) (t : Txn) (s : State) : (s.setTxn p t).fault = s.fault := rfl
@[simp] theorem State.setTxn_busy (p : Pos) (t : Txn) (s : State) : (s.setTxn p t).busy = s.busy := rfl
@[simp] theorem State.setTxn_ident (p : Pos) (t : Txn) (s : State) : (s.setTxn p t).ident = s.ident := rfl
@[simp] theorem State.setTxn_sig (p : Pos) (t : Txn) (s : State) : (s.setTxn p t).sig = s.sig := rfl
@[simp] theorem State.setTxn_seq (p : Pos) (t : Txn) (s : State) : (s.setTxn p t).seq = some ⟨p, t⟩ := rfl
@[simp] theorem State.setTxn_ctr (p : Pos) (t : Txn) (s : State) : (s.setTxn p t).ctr = s.ctr := rfl
@[simp] theorem State.setTxn_mode (p : Pos) (t : Txn) (s : State) : (s.setTxn p t).mode = s.mode := rfl
@[simp] theorem State.setTxn_task (p : Pos) (t : Txn) (s : State) : (s.setTxn p t).task = s.task := rfl
@[simp] theorem State.setTxn_pending (p : Pos) (t : Txn) (s : State) : (s.setTxn p t).pending = s.pending := rfl
@[simp] theorem State.setTxn_result (p : Pos) (t : Txn) (s : State) : (s.setTxn p t).result = s.result := rfl
@[simp] theorem State.setTxn_sessionResult (p : Pos) (t : Txn) (s : State) : (s.setTxn p t).sessionResult = s.sessionResult := rfl
@[simp] theorem State.setTxn_inbox (p : Pos) (t : Txn) (s : State) : (s.setTxn p t).inbox = s.inbox := rfl
@[simp] theorem State.setTxn_drawn (p : Pos) (t : Txn) (s : State) : (s.setTxn p t).drawn = s.drawn := rfl
@[simp] theorem State.setTxn_trace (p : Pos) (t : Txn) (s : State) : (s.setTxn p t).trace = s.trace := rfl

@[simp] theorem State.endTxn_cfg (o i : List Byte) (s : State) : (s.endTxn o i).cfg = s.cfg := rfl
@[simp] theorem State.endTxn_csn (o i : List Byte) (s : State) : (s.endTxn o i).csn = false := rfl
@[simp] theorem State.endTxn_status (o i : List Byte) (s : State) : (s.endTxn o i).status = some (i.headD 0) := rfl
@[simp] theorem State.endTxn_fault (o i : List Byte) (s : State) : (s.endTxn o i).fault = s.fault := rfl
@[simp] theorem State.endTxn_busy (o i : List Byte) (s : State) : (s.endTxn o i).busy = s.busy := rfl
@[simp] theorem State.endTxn_ident (o i : List Byte) (s : State) : (s.endTxn o i).ident = s.ident := rfl
@[simp] theorem State.endTxn_sig (o i : List Byte) (s : State) : (s.endTxn o i).sig = s.sig := rfl
@[simp] theorem State.endTxn_seq (o i : List Byte) (s : State) : (s.endTxn o i).seq = none := rfl
@[simp] theorem State.endTxn_ctr (o i : List Byte) (s : State) : (s.endTxn o i).ctr = s.ctr := rfl
@[simp] theorem State.endTxn_mode (o i : List Byte) (s : State) : (s.endTxn o i).mode = s.mode := rfl
@[simp] theorem State.endTxn_task (o i : List Byte) (s : State) : (s.endTxn o i).task = s.task := rfl
@[simp] theorem State.endTxn_pending (o i : List Byte) (s : State) : (s.endTxn o i).pending = s.pending := rfl
@[simp] theorem State.endTxn_result (o i : List Byte) (s : State) : (s.endTxn o i).result = s.result := rfl
@[simp] theorem State.endTxn_sessionResult (o i : List Byte) (s : State) : (s.endTxn o i).sessionResult = s.sessionResult := rfl
@[simp] theorem State.endTxn_inbox (o i : List Byte) (s : State) : (s.endTxn o i).inbox = s.inbox := rfl
@[simp] theorem State.endTxn_drawn (o i : List Byte) (s : State) : (s.endTxn o i).drawn = s.drawn := rfl
@[simp] theorem State.endTxn_trace (o i : List Byte) (s : State) : (s.endTxn o i).trace = .deselect :: .exchange o i :: s.trace := rfl

@[simp] theorem State.raise_cfg (code : FaultCode) (s : State) : (s.raise code).cfg = s.cfg := by cases h : s.csn <;> simp [State.raise, h]
@[simp] theorem State.raise_csn (code : FaultCode) (s : State) : (s.raise code).csn = false := by cases h : s.csn <;> simp [State.raise, h]
@[simp] theorem State.raise_status (code : FaultCode) (s : State) : (s.raise code).status = s.status := by cases h : s.csn <;> simp [State.raise, h]
@[simp] theorem State.raise_fault (code : FaultCode) (s : State) : (s.raise code).fault = if s.fault = .none then code else s.fault := by cases h : s.csn <;> simp [State.raise, h]
@[simp] theorem State.raise_busy (code : FaultCode) (s : State) : (s.raise code).busy = false := rfl
@[simp] theorem State.raise_ident (code : FaultCode) (s : State) : (s.raise code).ident = s.ident := by cases h : s.csn <;> simp [State.raise, h]
@[simp] theorem State.raise_sig (code : FaultCode) (s : State) : (s.raise code).sig = s.sig := by cases h : s.csn <;> simp [State.raise, h]
@[simp] theorem State.raise_seq (code : FaultCode) (s : State) : (s.raise code).seq = none := rfl
@[simp] theorem State.raise_ctr (code : FaultCode) (s : State) : (s.raise code).ctr = s.ctr := by cases h : s.csn <;> simp [State.raise, h]
@[simp] theorem State.raise_mode (code : FaultCode) (s : State) : (s.raise code).mode = s.mode := by cases h : s.csn <;> simp [State.raise, h]
@[simp] theorem State.raise_task (code : FaultCode) (s : State) : (s.raise code).task = s.task := by cases h : s.csn <;> simp [State.raise, h]
@[simp] theorem State.raise_pending (code : FaultCode) (s : State) : (s.raise code).pending = s.pending := by cases h : s.csn <;> simp [State.raise, h]
@[simp] theorem State.raise_result (code : FaultCode) (s : State) : (s.raise code).result = some (.faulted code) := rfl
@[simp] theorem State.raise_sessionResult (code : FaultCode) (s : State) : (s.raise code).sessionResult = s.sessionResult := by cases h : s.csn <;> simp [State.raise, h]
@[simp] theorem State.raise_inbox (code : FaultCode) (s : State) : (s.raise code).inbox = s.inbox := by cases h : s.csn <;> simp [State.raise, h]
@[simp] theorem State.raise_drawn (code : FaultCode) (s : State) : (s.raise code).drawn = s.drawn := by cases h : s.csn <;> simp [State.raise, h]
@[simp] theorem State.raise_trace (code : FaultCode) (s : State) : (s.raise code).trace = if s.csn then .deselect :: s.trace else s.trace := by cases h : s.csn <;> simp [State.raise, h]

end Sys2Proof.Machine
end

