-- ==== Sys2Proof/Laws/Sequencer.lean ====
section
/-! SUPPORT. Laws/Sequencer.lean: what issuing an operation, taking answers and resuming a procedure can do, each said
once; the provers cite these instead of unfolding. -/

namespace Sys2Proof.Machine

/-! ### Issuing -/

/-- With nothing in flight there is nothing to settle. -/
theorem State.settle_of_idle {s : State} (h : s.seq = none) : s.settle = s := by
  unfold State.settle
  cases hi : s.inbox with
  | nil => cases s; simp_all [State.takeAll]
  | cons a l => cases s; simp_all [State.takeAll]

/-- An accepted operation runs its body and settles. -/
theorem issue_of_accepting {s : State} (h : s.accepting) (body : State → State) :
    issue s body = .next (body s.accept).settle := by
  obtain ⟨hb, hf⟩ := h
  simp [issue, hb, hf]

/-- Nothing is issued while busy (10_state R25). -/
theorem issue_of_busy {s : State} (h : s.busy = true) (body : State → State) : issue s body = .refused .portBusy := by
  simp [issue, h]

/-- A stored fault refuses every operation (60_exceptions R269). -/
theorem issue_of_faulted {s : State} (hb : s.busy = false) (hf : s.fault ≠ .none) (body : State → State) :
    issue s body = .next s.reportStored := by
  simp [issue, hb, hf]

/-- Everything issuing can answer with a next state. -/
theorem issue_next_cases {s t : State} {body : State → State} (h : issue s body = .next t) :
    s.busy = false ∧ ((s.fault = .none ∧ t = (body s.accept).settle) ∨ (s.fault ≠ .none ∧ t = s.reportStored)) := by
  unfold issue at h
  split at h
  · cases h
  · rename_i hb
    refine ⟨by simpa using hb, ?_⟩
    split at h
    · rename_i hf
      exact .inl ⟨hf, by injection h with h; exact h.symm⟩
    · rename_i hf
      exact .inr ⟨hf, by injection h with h; exact h.symm⟩

/-- A condition that holds is passed. -/
@[simp] theorem State.ensure_true (code : FaultCode) (go : State → State) (s : State) :
    s.ensure true code go = go s := rfl

/-- A condition that fails raises its code. -/
@[simp] theorem State.ensure_false (code : FaultCode) (go : State → State) (s : State) :
    s.ensure false code go = s.raise code := rfl

/-! ### Operations that touch no bus -/

/-- An accepted operation that completes at once changes what the port shows, and nothing else. -/
theorem State.settle_finish {s : State} (r : OpResult) : (s.accept.finish r).settle = s.answered r := by
  rw [State.settle_of_idle (s := s.accept.finish r) rfl]
  rfl

/-- An accepted operation refused before it touches the bus (60_exceptions R268, first cases). -/
theorem State.settle_raise {s : State} (h : s.fault = .none) (hc : s.csn = false) (code : FaultCode) :
    (s.accept.raise code).settle = s.faultedAfter [] s.inbox code := by
  rw [State.settle_of_idle (s := s.accept.raise code) rfl]
  cases s
  simp only at h hc
  subst h hc
  rfl

/-- With no operation in flight a coherent block is deselected. -/
theorem Coherent.idle {s : State} (h : Coherent s) (hb : s.busy = false) : s.seq = none ∧ s.csn = false := by
  obtain ⟨-, -, h1, h2, -⟩ := h
  have hq : s.seq.isSome = false := h1 ▸ hb
  exact ⟨Option.isSome_eq_false_iff.mp hq |> Option.isNone_iff_eq_none.mp, h2.trans hq⟩

/-! ### Taking answers -/

/-- One answer taken while an operation waits. -/
theorem State.takeAll_cons {s : State} {q : Seq} (h : s.seq = some q) (a : BusSample) (l : List BusSample) :
    State.takeAll (a :: l) s = State.takeAll l (s.takeSample a) := by
  simp [State.takeAll, h]

/-- With nothing in flight the answers stay in the inbox. -/
theorem State.takeAll_of_idle {s : State} (h : s.seq = none) (l : List BusSample) :
    State.takeAll l s = { s with inbox := l } := by
  cases l <;> simp [State.takeAll, h]

theorem passesLimit_mono {l : Option Nat} {a b : Nat} (h : passesLimit l b = false) (hab : a ≤ b) :
    passesLimit l a = false := by
  cases l with
  | none => rfl
  | some n => simp [passesLimit] at *; omega

/-- Samples of `RDY` = 0 within `POLL_LIMIT` only count attempts (40_bus R112). -/
theorem State.takeAll_waits {pos : Pos} {out : List Byte} (waits l : List BusSample) :
    ∀ {s : State} {k : Nat}, s.seq = some ⟨pos, ⟨out, false, k, []⟩⟩ → (∀ x ∈ waits, x.rdy = false) →
      withinLimit s.cfg (k + waits.length) →
      State.takeAll (waits ++ l) s = State.takeAll l (s.setTxn pos ⟨out, false, k + waits.length, []⟩) := by
  induction waits with
  | nil =>
    intro s k hs _ _
    cases s
    simp_all [State.setTxn]
  | cons a waits ih =>
    intro s k hs hw hl
    have hk : passesLimit s.cfg.pollLimit (k + 1) = false := passesLimit_mono hl (by simp)
    have hstep : s.takeSample a = s.setTxn pos ⟨out, false, k + 1, []⟩ := by
      simp [State.takeSample, hs, hw a (by simp), State.pollGuard, hk]
    rw [List.cons_append, State.takeAll_cons hs, hstep,
      ih (s := s.setTxn pos ⟨out, false, k + 1, []⟩) rfl (fun x hx => hw x (by simp [hx])) (by
        simpa [Nat.add_assoc, Nat.add_comm, Nat.add_left_comm] using hl)]
    simp [State.setTxn, Nat.add_comm, Nat.add_left_comm]

/-- Bytes that arrive without failure end the exchange when the last one is in (40_bus R113, R114). -/
theorem State.takeAll_data {pos : Pos} {out : List Byte} {k : Nat} (data l : List BusSample) :
    ∀ {s : State} {got : List Byte}, s.seq = some ⟨pos, ⟨out, true, k, got⟩⟩ → (∀ x ∈ data, x.fail = false) →
      data ≠ [] → got.length + data.length = out.length →
      State.takeAll (data ++ l) s =
        State.takeAll l ((s.endTxn out (got ++ data.map BusSample.data)).resume pos (got ++ data.map BusSample.data)) := by
  induction data with
  | nil => intro s got _ _ h; exact absurd rfl h
  | cons a data ih =>
    intro s got hs hf _ hlen
    rw [List.cons_append, State.takeAll_cons hs]
    cases data with
    | nil =>
      have hge : ¬ got.length + 1 < out.length := by simp at hlen; omega
      simp [State.takeSample, hs, hf a (by simp), hge]
    | cons b data =>
      have hlt : got.length + 1 < out.length := by simp at hlen; omega
      have hstep : s.takeSample a = s.setTxn pos ⟨out, true, k, got ++ [a.data]⟩ := by
        simp [State.takeSample, hs, hf a (by simp), hlt]
      rw [hstep, ih (s := s.setTxn pos ⟨out, true, k, got ++ [a.data]⟩) (got := got ++ [a.data]) rfl
        (fun x hx => hf x (by simp [hx])) (by simp) (by simp at *; omega)]
      simp [State.setTxn, State.endTxn, State.deselect, State.emit]

/-- The state after one whole transaction, before the procedure goes on. -/
def State.didTxn (x : Exchanged) (s : State) : State :=
  { s with csn := false, status := some (x.2.headD 0), seq := none, trace := txnTrace x ++ s.trace }

/-- A transaction that is served runs to its end, and the procedure goes on (40_bus R114). -/
theorem State.takeAll_beginTxn {s : State} {pos : Pos} {out inn : List Byte} {l rest : List BusSample}
    (h : Served s.cfg inn l rest) (hlen : out.length = inn.length) (hne : inn ≠ []) :
    State.takeAll l (s.beginTxn pos out) = State.takeAll rest ((s.didTxn (out, inn)).resume pos inn) := by
  obtain ⟨waits, r, data, rfl, hw, hl, hr, hf, rfl⟩ := h
  have hd : data ≠ [] := by rintro rfl; exact hne rfl
  rw [State.takeAll_waits waits _ (s := s.beginTxn pos out) (k := 0) rfl hw (by simpa using hl),
    State.takeAll_cons rfl]
  have hstep : ((s.beginTxn pos out).setTxn pos ⟨out, false, 0 + waits.length, []⟩).takeSample r =
      (((s.beginTxn pos out).emit .ready).setTxn pos ⟨out, true, 0 + waits.length, []⟩) := by
    simp [State.takeSample, hr, State.setTxn, State.emit]
  rw [hstep, State.takeAll_data data rest rfl hf hd (by simp at hlen ⊢; omega)]
  simp [State.setTxn, State.emit, State.endTxn, State.deselect, State.beginTxn, State.select, State.didTxn, txnTrace]

/-! ### What no operation of the sequencer touches -/

/-- The configuration, the identity, `SIG`, the host's state and the request list are the same, and a stored fault
stays. -/
structure State.KeepsRest (s t : State) : Prop where
  cfg : t.cfg = s.cfg
  ident : t.ident = s.ident
  sig : t.sig = s.sig
  ctr : t.ctr = s.ctr
  mode : t.mode = s.mode
  task : t.task = s.task
  pending : t.pending = s.pending
  sessionResult : t.sessionResult = s.sessionResult
  drawn : t.drawn = s.drawn
  fault : s.fault ≠ .none → t.fault = s.fault

theorem State.KeepsRest.refl (s : State) : s.KeepsRest s := ⟨rfl, rfl, rfl, rfl, rfl, rfl, rfl, rfl, rfl, fun _ => rfl⟩

theorem State.KeepsRest.trans {s t u : State} (h : s.KeepsRest t) (k : t.KeepsRest u) : s.KeepsRest u :=
  ⟨k.cfg.trans h.cfg, k.ident.trans h.ident, k.sig.trans h.sig, k.ctr.trans h.ctr, k.mode.trans h.mode,
    k.task.trans h.task, k.pending.trans h.pending, k.sessionResult.trans h.sessionResult, k.drawn.trans h.drawn,
    fun hf => by rw [k.fault (by rw [h.fault hf]; exact hf), h.fault hf]⟩

theorem State.emit_keeps (e : BusEvent) (s : State) : s.KeepsRest (s.emit e) := by constructor <;> simp
theorem State.select_keeps (s : State) : s.KeepsRest s.select := by constructor <;> simp
theorem State.deselect_keeps (s : State) : s.KeepsRest s.deselect := by constructor <;> simp
theorem State.pause_keeps (t : Nat) (s : State) : s.KeepsRest (s.pause t) := by constructor <;> simp
theorem State.accept_keeps (s : State) : s.KeepsRest s.accept := by constructor <;> simp
theorem State.finish_keeps (r : OpResult) (s : State) : s.KeepsRest (s.finish r) := by constructor <;> simp
theorem State.raise_keeps (code : FaultCode) (s : State) : s.KeepsRest (s.raise code) := by
  constructor <;> simp +contextual
theorem State.reportStored_keeps (s : State) : s.KeepsRest s.reportStored := by constructor <;> simp
theorem State.beginTxn_keeps (p : Pos) (o : List Byte) (s : State) : s.KeepsRest (s.beginTxn p o) := by
  constructor <;> simp
theorem State.setTxn_keeps (p : Pos) (t : Txn) (s : State) : s.KeepsRest (s.setTxn p t) := by constructor <;> simp
theorem State.endTxn_keeps (o i : List Byte) (s : State) : s.KeepsRest (s.endTxn o i) := by constructor <;> simp

theorem State.pollGuard_keeps {a : Nat} {go : Nat → State → State} {s : State} (h : s.KeepsRest (go (a + 1) s)) :
    s.KeepsRest (s.pollGuard a go) := by
  unfold State.pollGuard
  split
  · exact s.raise_keeps _
  · exact h

theorem State.ensure_keeps {c : Bool} {code : FaultCode} {go : State → State} {s : State} (h : s.KeepsRest (go s)) :
    s.KeepsRest (s.ensure c code go) := by
  cases c
  · exact s.raise_keeps _
  · exact h

theorem State.receiveBody_keeps (m o : Nat) (v : Byte) (s : State) : s.KeepsRest (s.receiveBody m o v) := by
  simp only [State.receiveBody, State.beginRearm, State.beginStrobe]
  split
  · exact s.beginTxn_keeps _ _
  · split <;> exact s.beginTxn_keeps _ _

theorem State.streamLoop_keeps (b : List Byte) (idx : Nat) (s : State) : s.KeepsRest (s.streamLoop b idx) := by
  unfold State.streamLoop
  split <;> exact s.beginTxn_keeps _ _

theorem State.arbiterDone_keeps (use : ArbUse) (v : Byte) (s : State) : s.KeepsRest (s.arbiterDone use v) := by
  cases use with
  | readReg => exact s.finish_keeps _
  | rxOcc m => exact s.beginTxn_keeps _ _
  | rxMarc m o => exact s.receiveBody_keeps _ _ _
  | txUnf b => exact s.beginTxn_keeps _ _
  | txDrain n =>
    simp only [State.arbiterDone, State.drainRead]
    split
    · exact s.finish_keeps _
    · exact State.pollGuard_keeps (s.beginTxn_keeps _ _)

theorem State.medianDone_keeps (use : MedUse) (v : Byte) (s : State) : s.KeepsRest (s.medianDone use v) := by
  cases use with
  | readMed3 => exact s.finish_keeps _
  | txOcc b i n =>
    simp only [State.medianDone, State.occupancyRead]
    split
    · exact State.pollGuard_keeps (s.beginTxn_keeps _ _)
    · exact s.beginTxn_keeps _ _

/-- Resuming a procedure touches only what the bus and the port show. -/
theorem State.resume_keeps (pos : Pos) (i : List Byte) (s : State) : s.KeepsRest (s.resume pos i) := by
  cases pos <;> simp only [State.resume]
  case strobe | write | readOne | readMany | rxRestart => exact s.finish_keeps _
  case chipReset => exact (s.pause_keeps _).trans (State.finish_keeps _ _)
  case arbNext use a vp n =>
    split
    · exact s.arbiterDone_keeps _ _
    · exact State.pollGuard_keeps (s.beginTxn_keeps _ _)
  case med2 => exact s.medianDone_keeps _ _
  case txStart => exact s.streamLoop_keeps _ _
  case txByte =>
    split
    · exact s.beginTxn_keeps _ _
    · exact s.streamLoop_keeps _ _
  all_goals exact s.beginTxn_keeps _ _

/-- Taking an answer touches only what the bus and the port show. -/
theorem State.takeSample_keeps (a : BusSample) (s : State) : s.KeepsRest (s.takeSample a) := by
  unfold State.takeSample
  split
  · exact .refl s
  · split
    · split
      · exact (s.emit_keeps _).trans (State.raise_keeps _ _)
      · dsimp only
        split
        · exact s.setTxn_keeps _ _
        · exact (s.endTxn_keeps _ _).trans (State.resume_keeps _ _ _)
    · split
      · exact (s.emit_keeps _).trans (State.setTxn_keeps _ _ _)
      · exact State.pollGuard_keeps (s.setTxn_keeps _ _)

/-- Taking answers touches, beside that, only the inbox. -/
theorem State.takeAll_keeps (l : List BusSample) : ∀ s : State, s.KeepsRest (State.takeAll l s) := by
  induction l with
  | nil => intro s; exact ⟨rfl, rfl, rfl, rfl, rfl, rfl, rfl, rfl, rfl, fun _ => rfl⟩
  | cons a l ih =>
    intro s
    unfold State.takeAll
    split
    · exact (s.takeSample_keeps a).trans (ih _)
    · exact ⟨rfl, rfl, rfl, rfl, rfl, rfl, rfl, rfl, rfl, fun _ => rfl⟩

theorem State.settle_keeps (s : State) : s.KeepsRest s.settle := State.takeAll_keeps _ _

/-- An issued operation whose body keeps the rest keeps the rest. -/
theorem issue_keeps {s t : State} {body : State → State} (hb : s.accept.KeepsRest (body s.accept))
    (h : issue s body = .next t) : s.KeepsRest t := by
  obtain ⟨-, ⟨-, rfl⟩ | ⟨-, rfl⟩⟩ := issue_next_cases h
  · exact (s.accept_keeps.trans hb).trans (State.settle_keeps _)
  · exact s.reportStored_keeps

/-! ### What lies beside the operation in flight -/

/-- Other answers to come, other requests in line, another count of free answers. -/
def State.beside (l : List BusSample) (p : List Request) (n : Nat) (s : State) : State :=
  { s with inbox := l, pending := p, drawn := n }

section beside

variable (l : List BusSample) (p : List Request) (n : Nat)

theorem State.raise_beside (code : FaultCode) (s : State) :
    (s.beside l p n).raise code = (s.raise code).beside l p n := by
  cases h : s.csn <;> simp [State.raise, State.beside, State.deselect, h]

theorem State.pollGuard_beside {k : Nat} {go : Nat → State → State} {s : State}
    (h : go (k + 1) (s.beside l p n) = (go (k + 1) s).beside l p n) :
    (s.beside l p n).pollGuard k go = (s.pollGuard k go).beside l p n := by
  unfold State.pollGuard
  rw [h, State.raise_beside, apply_ite (State.beside l p n)]
  rfl

theorem State.ensure_beside {c : Bool} {code : FaultCode} {go : State → State} {s : State}
    (h : go (s.beside l p n) = (go s).beside l p n) :
    (s.beside l p n).ensure c code go = (s.ensure c code go).beside l p n := by
  cases c
  · exact State.raise_beside l p n code s
  · exact h

theorem State.receiveBody_beside (m o : Nat) (v : Byte) (s : State) :
    (s.beside l p n).receiveBody m o v = (s.receiveBody m o v).beside l p n := by
  simp only [State.receiveBody, apply_ite (State.beside l p n)]
  rfl

theorem State.streamLoop_beside (b : List Byte) (i : Nat) (s : State) :
    (s.beside l p n).streamLoop b i = (s.streamLoop b i).beside l p n := by
  simp only [State.streamLoop, apply_ite (State.beside l p n)]
  rfl

theorem State.arbiterDone_beside (use : ArbUse) (v : Byte) (s : State) :
    (s.beside l p n).arbiterDone use v = (s.arbiterDone use v).beside l p n := by
  cases use with
  | rxMarc m o => exact State.receiveBody_beside l p n m o v s
  | txDrain k =>
    simp only [State.arbiterDone, State.drainRead, apply_ite (State.beside l p n)]
    rw [State.pollGuard_beside l p n rfl]
    rfl
  | _ => rfl

theorem State.medianDone_beside (use : MedUse) (v : Byte) (s : State) :
    (s.beside l p n).medianDone use v = (s.medianDone use v).beside l p n := by
  cases use with
  | readMed3 => rfl
  | txOcc b i k =>
    simp only [State.medianDone, State.occupancyRead, apply_ite (State.beside l p n)]
    rw [State.pollGuard_beside l p n rfl]
    rfl

/-- Resuming a procedure does not look beside it. -/
theorem State.resume_beside (pos : Pos) (i : List Byte) (s : State) :
    (s.beside l p n).resume pos i = (s.resume pos i).beside l p n := by
  cases pos
  case arbNext use a vp k =>
    simp only [State.resume, apply_ite (State.beside l p n)]
    rw [State.arbiterDone_beside, State.pollGuard_beside l p n rfl]
  case med2 => exact State.medianDone_beside l p n _ _ s
  case txStart => exact State.streamLoop_beside l p n _ _ s
  case txByte b idx len k =>
    simp only [State.resume, apply_ite (State.beside l p n)]
    rw [State.streamLoop_beside]
    rfl
  all_goals rfl

/-- Neither does taking an answer. -/
theorem State.takeSample_beside (a : BusSample) (s : State) :
    (s.beside l p n).takeSample a = (s.takeSample a).beside l p n := by
  cases hq : s.seq with
  | none => simp [State.takeSample, hq, State.beside]
  | some q =>
    have hq' : (s.beside l p n).seq = some q := hq
    simp only [State.takeSample, hq, hq', apply_ite (State.beside l p n)]
    rw [State.pollGuard_beside l p n (s := s) rfl, ← State.resume_beside, ← State.raise_beside]
    rfl

/-- Taking a list of answers: what was in the inbox is lost, the rest stays. -/
theorem State.takeAll_beside (ls : List BusSample) : ∀ s : State,
    State.takeAll ls (s.beside l p n) = (State.takeAll ls s).beside (State.takeAll ls s).inbox p n := by
  induction ls with
  | nil => intro s; rfl
  | cons a ls ih =>
    intro s
    simp only [State.takeAll, State.takeSample_beside, ih]
    cases h : s.seq <;> simp [State.beside, h]

/-- A list of answers taken in two parts. -/
theorem State.takeAll_append (l1 l2 : List BusSample) : ∀ s : State, State.takeAll (l1 ++ l2) s =
    if (State.takeAll l1 s).seq.isSome then State.takeAll l2 (State.takeAll l1 s)
    else { State.takeAll l1 s with inbox := (State.takeAll l1 s).inbox ++ l2 } := by
  induction l1 with
  | nil =>
    intro s
    have h : State.takeAll l2 ({ s with inbox := [] } : State) = State.takeAll l2 s :=
      (State.takeAll_beside [] s.pending s.drawn l2 s).trans (by
        have := State.takeAll_keeps l2 s
        cases ht : State.takeAll l2 s
        simp only [ht] at this
        simp [State.beside, ← this.pending, ← this.drawn])
    cases hs : s.seq with
    | none => simp [State.takeAll, hs, State.takeAll_of_idle]
    | some q =>
      have hq : ({ s with inbox := [] } : State).seq.isSome = true := by simp [hs]
      exact h.symm.trans (if_pos hq).symm
  | cons a l1 ih =>
    intro s
    cases hs : s.seq with
    | none => simp [State.takeAll, hs]
    | some q => simp only [List.cons_append, State.takeAll_cons hs, ih]

end beside

/-! ### An invariant of the sequencer, packaged once -/

/-- A property that every answer taken keeps, and that does not look at the inbox, is kept by settling. -/
theorem State.takeAll_induct {P : State → Prop} (hin : ∀ s l, P s → P { s with inbox := l })
    (hstep : ∀ s a, P s → P (s.takeSample a)) (l : List BusSample) : ∀ s, P s → P (State.takeAll l s) := by
  induction l with
  | nil => intro s h; exact hin s [] h
  | cons a l ih =>
    intro s h
    unfold State.takeAll
    split
    · exact ih _ (hstep s a h)
    · exact hin s _ h

end Sys2Proof.Machine
end

