-- ==== Sys2Proof/Laws/Procedures.lean ====
section
/-! SUPPORT. Laws/Procedures.lean: what each piece of a driver procedure does when the chip serves it: one transaction, the
arbiter, the median, the re-arm strobes, the streaming loop and the drain poll, each as a list of transactions done. -/

namespace Sys2Proof.Machine

/-! ### Headers and legal addresses -/

theorem header_strobe_write : ∀ a : Addr, header false false a = a.setWidth 8 := by decide
theorem header_burst_write : ∀ a : Addr, header false true a = 0x40 ||| a.setWidth 8 := by decide
theorem header_read : ∀ a : Addr, header true false a = 0x80 ||| a.setWidth 8 := by decide
theorem header_burst_read : ∀ a : Addr, header true true a = 0xC0 ||| a.setWidth 8 := by decide

/-- The three fields of an assembled header. -/
theorem header_fields : ∀ rw burst : Bool, ∀ a : Addr,
    hdrRw (header rw burst a) = rw ∧ hdrBurst (header rw burst a) = burst ∧ hdrAddr (header rw burst a) = a := by decide

/-- A header is assembled from its own fields. -/
theorem header_of_fields : ∀ h : Byte, header (hdrRw h) (hdrBurst h) (hdrAddr h) = h := by decide

/-- An address that fits 6 bits keeps its value in the header field. -/
theorem field6_setWidth : ∀ a : Byte, a.toNat < 64 → (field6 a).setWidth 8 = a := by unfold field6; decide

theorem legalWrite_of {c : Cfg} {a : Nat} (h : WritableAddr c a) : legalWrite c a = true := by
  simpa [legalWrite, inCfgRange, isStreamAddr] using h

theorem legalBurst_of {c : Cfg} {a n : Nat} (h : BurstAddr c a n) : legalBurst c a n = true := by
  simpa [legalBurst, inCfgRange, isStreamAddr] using h

theorem inStatRange_of {a : Nat} (h : 0x30 ≤ a) (h' : a ≤ 0x3D) : inStatRange a = true := by simp [inStatRange]; omega

theorem WritableAddr.lt {c : Cfg} {a : Nat} (h : WritableAddr c a) : a < 64 := by
  have := c.aFifo.isLt
  have := c.aPatable.isLt
  omega

theorem BurstAddr.lt {c : Cfg} {a n : Nat} (h : BurstAddr c a n) : a < 64 := by
  have := c.aFifo.isLt
  have := c.aPatable.isLt
  omega

/-- `rstSeqOk` says what 41_driver R130 asks: levels alternate, the last is 0. -/
theorem rstSeqOk_iff : ∀ l : List (Bool × Nat), rstSeqOk l = true ↔
    (l.map Prod.fst).IsChain (· ≠ ·) ∧ (l.map Prod.fst).getLast? ≠ some true
  | [] => by simp [rstSeqOk]
  | [(level, d)] => by simp [rstSeqOk]
  | (level, d) :: (next, d') :: rest => by
    have ih := rstSeqOk_iff ((next, d') :: rest)
    simp only [rstSeqOk, Bool.and_eq_true, bne_iff_ne, ih, List.map_cons, List.isChain_cons_cons, List.getLast?_cons_cons]
    tauto

/-- Where the FIFO and the power table may lie (00_scope R10, 20_memory R54). -/
theorem streamAddrOk_iff (a : Addr) : streamAddrOk a = true ↔
    0x2E < a.toNat ∧ ¬ (0x30 ≤ a.toNat ∧ a.toNat ≤ 0x3D) ∧ a.toNat ≠ 0x2F := by
  simp [streamAddrOk, inCfgRange, inStatRange, and_assoc]
  omega

/-- `Cfg.valid` is the list of constraints, spelled out. -/
theorem Cfg.valid_iff (c : Cfg) : c.valid = true ↔ MeetsConstraints c := by
  have stat : ∀ n : Nat, inStatRange n = true ↔ 0x30 ≤ n ∧ n ≤ 0x3D := fun n => by simp [inStatRange]
  simp only [Cfg.valid, Cfg.profilesOk, Cfg.syncSet, Cfg.strobes, Bool.and_eq_true,
    decide_eq_true_eq, List.all_eq_true, stat, streamAddrOk_iff, rstSeqOk_iff, List.contains_iff_mem]
  constructor
  · rintro ⟨⟨⟨⟨⟨⟨⟨⟨h1, h2⟩, h3⟩, h4⟩, h5⟩, h6⟩, h7⟩, h8⟩, h9, h10⟩
    have hp := h10 .packetLength (by simp)
    have h0 := h10 .sync0 (by simp)
    have h1' := h10 .sync1 (by simp)
    exact ⟨h1, h2, h3, h4, h5, h6, h7, h8, h9, ⟨hp.1, h0.1, h1'.1⟩, hp.2, h0.2, h1'.2⟩
  · rintro ⟨h1, h2, h3, h4, h5, h6, h7, h8, h9, ⟨ha, hb, hc⟩, hd, he, hf⟩
    refine ⟨⟨⟨⟨⟨⟨⟨⟨h1, h2⟩, h3⟩, h4⟩, h5⟩, h6⟩, h7⟩, h8⟩, h9, ?_⟩
    simp only [List.mem_cons, List.not_mem_nil, or_false, forall_eq_or_imp, forall_eq]
    exact ⟨⟨ha, hd⟩, ⟨hb, he⟩, hc, hf⟩

/-- What a configuration that meets the constraints of 00_scope R10 gives. -/
structure Cfg.Facts (c : Cfg) : Prop where
  fifo : 6 ≤ c.fifoSize
  sync : ∀ a ∈ c.syncSet, inStatRange a.toNat = true
  strobe : ∀ a ∈ c.strobes, inStatRange a.toNat = true
  aFifo : inCfgRange c.aFifo.toNat = false ∧ inStatRange c.aFifo.toNat = false
  aPatable : inCfgRange c.aPatable.toNat = false ∧ inStatRange c.aPatable.toNat = false
  payload : 12 ≤ c.payloadMax
  wire : 63 ≤ c.wireMax
  burst : c.fifoSize ≤ c.burstMax
  rst : rstSeqOk c.rstSeq = true

theorem Cfg.facts {c : Cfg} (h : c.valid = true) : Cfg.Facts c := by
  simp only [Cfg.valid, streamAddrOk, Bool.and_eq_true, List.all_eq_true, List.mem_cons, List.not_mem_nil, or_false,
    Bool.not_eq_true', forall_eq_or_imp, forall_eq] at h
  obtain ⟨⟨⟨⟨⟨⟨⟨⟨h1, h2⟩, h3⟩, h4, h5⟩, h6⟩, h7⟩, h8⟩, h9⟩, -⟩ := h
  exact ⟨of_decide_eq_true h1, h2, h3, h4.1, h5.1, of_decide_eq_true h6, of_decide_eq_true h7, of_decide_eq_true h8, h9⟩

/-! ### Transactions done -/

@[simp] theorem State.didTxn_cfg (x : Exchanged) (s : State) : (s.didTxn x).cfg = s.cfg := rfl

/-- The state after a list of transactions, first done first. -/
def State.didAll : List Exchanged → State → State
  | [], s => s
  | x :: xs, s => State.didAll xs (s.didTxn x)

@[simp] theorem State.didAll_nil (s : State) : State.didAll [] s = s := rfl
@[simp] theorem State.didAll_cons (x : Exchanged) (l : List Exchanged) (s : State) :
    State.didAll (x :: l) s = State.didAll l (s.didTxn x) := rfl

@[simp] theorem State.didAll_cfg (l : List Exchanged) : ∀ s : State, (State.didAll l s).cfg = s.cfg := by
  induction l with
  | nil => intro s; rfl
  | cons x l ih => intro s; exact ih _

theorem State.didAll_append (l m : List Exchanged) : ∀ s : State,
    State.didAll (l ++ m) s = State.didAll m (State.didAll l s) := by
  induction l with
  | nil => intro s; rfl
  | cons x l ih => intro s; exact ih _

/-- What a list of transactions leaves behind. -/
theorem State.didAll_eq (l : List Exchanged) : ∀ (x : Exchanged) (s : State), State.didAll (x :: l) s =
    { s with csn := false, status := logStatus s.status (x :: l), seq := none, trace := logTrace (x :: l) ++ s.trace } := by
  induction l with
  | nil => intro x s; simp [State.didTxn, logStatus, logTrace]
  | cons y l ih =>
    intro x s
    rw [State.didAll_cons, ih y (s.didTxn x)]
    simp [State.didTxn, logStatus, logTrace, List.getLast?_cons]

/-- An accepted operation that did the transactions of `log` and completes. -/
theorem State.takeAll_didAll_finish {s : State} {log : List Exchanged} (hne : log ≠ []) (r : OpResult)
    (rest : List BusSample) : State.takeAll rest ((State.didAll log s.accept).finish r) = s.served log rest r := by
  cases log with
  | nil => exact absurd rfl hne
  | cons x log => rw [State.takeAll_of_idle rfl, State.didAll_eq]; rfl

/-- An accepted operation that did the transactions of `log` and then raises a fault with the chip deselected. -/
theorem State.takeAll_didAll_raise {s : State} {log : List Exchanged} (hne : log ≠ []) (hf : s.fault = .none)
    (code : FaultCode) (rest : List BusSample) :
    State.takeAll rest ((State.didAll log s.accept).raise code) = s.faultedAfter log rest code := by
  cases log with
  | nil => exact absurd rfl hne
  | cons x log =>
    rw [State.takeAll_of_idle rfl, State.didAll_eq]
    simp [State.raise, State.faultedAfter, State.accept, hf]

theorem servedAll_append {c : Cfg} (a b : List (List Byte)) : ∀ l rest : List BusSample,
    ServedAll c (a ++ b) l rest ↔ ∃ mid, ServedAll c a l mid ∧ ServedAll c b mid rest := by
  induction a with
  | nil => intro l rest; simp [ServedAll]
  | cons x a ih =>
    intro l rest
    simp only [List.cons_append, ServedAll, ih]
    constructor
    · rintro ⟨m, h, m2, h2, h3⟩
      exact ⟨m2, ⟨m, h, h2⟩, h3⟩
    · rintro ⟨m2, ⟨m, h, h2⟩, h3⟩
      exact ⟨m, h, m2, h2, h3⟩

/-- A transaction of the log, served: the procedure goes on after it. -/
theorem State.takeAll_txn {s : State} {pos : Pos} (x : Exchanged) {l rest : List BusSample} (h : Served s.cfg x.2 l rest)
    (hlen : x.1.length = x.2.length) (hne : x.2 ≠ []) :
    State.takeAll l (s.beginTxn pos x.1) = State.takeAll rest ((s.didTxn x).resume pos x.2) :=
  State.takeAll_beginTxn h hlen hne

/-- An operation of one transaction. -/
theorem State.settle_single {s : State} {pos : Pos} {out inn : List Byte} {rest : List BusSample} {r : OpResult}
    (h : Served s.cfg inn s.inbox rest) (hl : out.length = inn.length) (hne : inn ≠ [])
    (hr : ∀ t : State, t.resume pos inn = t.finish r) :
    (s.accept.beginTxn pos out).settle = s.served [(out, inn)] rest r := by
  unfold State.settle
  rw [show (s.accept.beginTxn pos out).inbox = s.inbox from rfl, State.takeAll_beginTxn (s := s.accept) h hl hne, hr,
    State.takeAll_of_idle rfl]
  rfl

/-! ### The arbiter and the median (41_driver R134, R135) -/

theorem ArbiterLog.ne_nil {c : Cfg} {a : Addr} {v : Byte} {log : List Exchanged} (h : ArbiterLog c a v log) :
    log ≠ [] := by
  obtain ⟨reads, rfl, h1, -⟩ := h
  rintro h
  simp at h
  subst h
  simp [arbiterStops] at h1

/-- A read that differs from its predecessor, within `POLL_LIMIT`, is followed by another. -/
theorem State.resume_arbNext_again {s : State} {use : ArbUse} {a : Addr} {p : Byte} {n : Nat} {r : Byte × Byte}
    (hne : p ≠ r.2) (hlim : withinLimit s.cfg (n + 1)) :
    s.resume (.arbNext use a p n) (statRead a r).2 = s.beginStat (.arbNext use a r.2 (n + 1)) a := by
  have h : ¬ r.2 = p := fun h => hne h.symm
  simp [State.resume, statRead, h, State.pollGuard, hlim]

/-- The arbiter after its first read, which gave `p`, with `n` disagreements counted. -/
theorem State.takeAll_arbNext {use : ArbUse} {a : Addr} {v : Byte} (reads : List (Byte × Byte)) :
    ∀ (s : State) (p : Byte) (n : Nat) (l rest : List BusSample), arbiterStops (p :: reads.map Prod.snd) = true →
      (reads.map Prod.snd).getLast? = some v → withinLimit s.cfg (n + (reads.length - 1)) →
      ServedAll s.cfg ((reads.map (statRead a)).map Prod.snd) l rest →
      State.takeAll l (s.beginStat (.arbNext use a p n) a) =
        State.takeAll rest ((State.didAll (reads.map (statRead a)) s).arbiterDone use v) := by
  induction reads with
  | nil => intro s p n l rest h; simp [arbiterStops] at h
  | cons r reads ih =>
    intro s p n l rest hst hlast hlim hs
    obtain ⟨mid, h1, h2⟩ := hs
    rw [show s.beginStat (.arbNext use a p n) a = s.beginTxn (.arbNext use a p n) (statRead a r).1 from rfl,
      State.takeAll_txn (statRead a r) h1 rfl (by simp [statRead])]
    cases reads with
    | nil =>
      have hp : p = r.2 := by simpa [arbiterStops] using hst
      have hv : r.2 = v := by simpa using hlast
      simp only [ServedAll, List.map_nil] at h2
      subst h2 hv
      simp [State.resume, statRead, hp]
    | cons r' reads =>
      have hst' : p ≠ r.2 ∧ arbiterStops (r.2 :: (r' :: reads).map Prod.snd) = true := by
        simpa [arbiterStops] using hst
      have hlim' : withinLimit s.cfg (n + 1) := passesLimit_mono hlim (by simp)
      rw [State.resume_arbNext_again (s := s.didTxn (statRead a r)) hst'.1 hlim']
      exact ih (s.didTxn (statRead a r)) r.2 (n + 1) mid rest hst'.2 (by simpa using hlast)
        (by simpa [Nat.add_assoc, Nat.add_comm, Nat.add_left_comm] using hlim) h2

/-- An arbitrated read, served (41_driver R134). -/
theorem State.takeAll_arbiter {s : State} {use : ArbUse} {a : Addr} {v : Byte} {log : List Exchanged}
    {l rest : List BusSample} (h : ArbiterLog s.cfg a v log) (hs : ServedAll s.cfg (log.map Prod.snd) l rest) :
    State.takeAll l (s.beginArbiter use a) = State.takeAll rest ((State.didAll log s).arbiterDone use v) := by
  obtain ⟨reads, rfl, h1, h2, h3⟩ := h
  match reads, h1, h2, h3, hs with
  | [], h1, _, _, _ => simp [arbiterStops] at h1
  | [r], h1, _, _, _ => simp [arbiterStops] at h1
  | r :: r' :: reads, h1, h2, h3, ⟨mid, hs1, hs2⟩ =>
    rw [show s.beginArbiter use a = s.beginTxn (.arbFirst use a) (statRead a r).1 from rfl,
      State.takeAll_txn (statRead a r) hs1 rfl (by simp [statRead])]
    exact State.takeAll_arbNext (r' :: reads) (s.didTxn (statRead a r)) r.2 0 mid rest h1 (by simpa using h2)
      (by simpa using h3) hs2

/-- A median read, served (41_driver R135). -/
theorem State.takeAll_median {s : State} {use : MedUse} {a : Addr} {v : Byte} {log : List Exchanged}
    {l rest : List BusSample} (h : MedianLog a v log) (hs : ServedAll s.cfg (log.map Prod.snd) l rest) :
    State.takeAll l (s.beginMedian use a) = State.takeAll rest ((State.didAll log s).medianDone use v) := by
  obtain ⟨r0, r1, r2, rfl, rfl⟩ := h
  obtain ⟨m0, h0, m1, h1, m2, h2, rfl⟩ := hs
  have e0 := State.takeAll_txn (s := s) (pos := .med0 use a) (statRead a r0) h0 rfl (by simp [statRead])
  have e1 := State.takeAll_txn (s := s.didTxn (statRead a r0)) (pos := .med1 use a r0.2) (statRead a r1) h1 rfl
    (by simp [statRead])
  have e2 := State.takeAll_txn (s := (s.didTxn (statRead a r0)).didTxn (statRead a r1)) (pos := .med2 use a r0.2 r1.2)
    (statRead a r2) h2 rfl (by simp [statRead])
  exact e0.trans (e1.trans e2)

/-! ### Strobes -/

/-- A strobe, served. -/
theorem State.takeAll_strobe {s : State} {pos : Pos} {code : Addr} {st : Byte} {l rest : List BusSample}
    (h : Served s.cfg [st] l rest) : State.takeAll l (s.beginStrobe pos code) =
      State.takeAll rest ((s.didTxn (strobed code st)).resume pos [st]) :=
  State.takeAll_txn (strobed code st) h rfl (by simp [strobed])

/-- The re-arm strobes of `RECEIVE_FIFO`, served (41_driver R137). -/
theorem State.takeAll_rearm {s : State} {r : List Byte} {st0 st1 st2 : Byte} {l rest : List BusSample}
    (h : ServedAll s.cfg [[st0], [st1], [st2]] l rest) : State.takeAll l (s.beginRearm r) =
      State.takeAll rest ((State.didAll [strobed s.cfg.sIdle st0, strobed s.cfg.sFlushRx st1, strobed s.cfg.sRx st2]
        s).finish (.bytes r)) := by
  obtain ⟨m0, h0, m1, h1, m2, h2, rfl⟩ := h
  have e0 := State.takeAll_strobe (s := s) (pos := .rxIdle r) (code := s.cfg.sIdle) h0
  have e1 := State.takeAll_strobe (s := s.didTxn (strobed s.cfg.sIdle st0)) (pos := .rxFlush r) (code := s.cfg.sFlushRx) h1
  have e2 := State.takeAll_strobe (s := (s.didTxn (strobed s.cfg.sIdle st0)).didTxn (strobed s.cfg.sFlushRx st1))
    (pos := .rxRestart r) (code := s.cfg.sRx) h2
  exact e0.trans (e1.trans e2)

/-! ### `TRANSMIT_FIFO` (41_driver R138) -/

/-- The refill writes from `i` on, served. -/
theorem State.takeAll_refill {b : List Byte} {idx len : Nat} (k : Nat) : ∀ (s : State) (i : Nat)
    (answers : List (Byte × Byte)) (l rest : List BusSample), i + k + 1 = len → idx + len ≤ b.length →
    answers.length = k + 1 →
    ServedAll s.cfg ((refillLog s.cfg ((b.drop (idx + i)).take (k + 1)) answers).map Prod.snd) l rest →
    State.takeAll l (s.refillByte b idx len i) = State.takeAll rest
      ((State.didAll (refillLog s.cfg ((b.drop (idx + i)).take (k + 1)) answers) s).streamLoop b (idx + len)) := by
  induction k with
  | zero =>
    intro s i answers l rest hi hb ha hs
    obtain ⟨a, rfl⟩ := List.length_eq_one_iff.mp ha
    have hlt : idx + i < b.length := by omega
    rw [List.drop_eq_getElem_cons hlt] at hs ⊢
    obtain ⟨mid, h1, rfl⟩ := hs
    have e := State.takeAll_txn (s := s) (pos := .txByte b idx len i) (wrsBytes s.cfg.aFifo b[idx + i], [a.1, a.2]) h1 rfl
      (by simp)
    have hg : b.getD (idx + i) 0 = b[idx + i] := by simp [hlt]
    rw [State.refillByte, hg, e]
    have hn : ¬ i + 1 < len := by omega
    simp only [State.resume, hn, if_false]
    rfl
  | succ k ih =>
    intro s i answers l rest hi hb ha hs
    obtain ⟨a, as, rfl⟩ : ∃ a as, answers = a :: as := by cases answers <;> simp_all
    have hlt : idx + i < b.length := by omega
    rw [List.drop_eq_getElem_cons hlt] at hs ⊢
    obtain ⟨mid, h1, h2⟩ := hs
    have e := State.takeAll_txn (s := s) (pos := .txByte b idx len i) (wrsBytes s.cfg.aFifo b[idx + i], [a.1, a.2]) h1 rfl
      (by simp)
    have hg : b.getD (idx + i) 0 = b[idx + i] := by simp [hlt]
    rw [State.refillByte, hg, e]
    have hn : i + 1 < len := by omega
    have e2 := ih (s.didTxn (wrsBytes s.cfg.aFifo b[idx + i], [a.1, a.2])) (i + 1) as mid rest (by omega) hb
      (by simpa using ha) h2
    simp only [State.resume, hn, if_true]
    exact e2

/-- The drain poll's test, spelled out (41_driver R138). -/
theorem drained_iff (c : Cfg) (v : Byte) : drained c v = true ↔ DrainedBy c v := by
  simp [drained, radioState, DrainedBy]

/-- The streaming loop, served. -/
theorem State.takeAll_stream {c : Cfg} {b : List Byte} (hc : 6 ≤ c.fifoSize) {idx attempts : Nat} {log : List Exchanged}
    (h : StreamLog c b idx attempts log) : ∀ (s : State) (l rest : List BusSample), s.cfg = c →
      ServedAll c (log.map Prod.snd) l rest →
      (idx < b.length → State.takeAll l (s.beginOccupancy b idx attempts) =
        State.takeAll rest ((State.didAll log s).beginDrain 0))
      ∧ (attempts = 0 → State.takeAll l (s.streamLoop b idx) =
        State.takeAll rest ((State.didAll log s).beginDrain 0)) := by
  have loop : ∀ (s : State) (idx : Nat), idx < b.length → s.streamLoop b idx = s.beginOccupancy b idx 0 := by
    intro s idx h; simp [State.streamLoop, h]
  induction h with
  | done hle =>
    rintro s l rest rfl hs
    simp only [List.map_nil, ServedAll] at hs
    subst hs
    exact ⟨fun h => absurd h (by omega), fun _ => by simp [State.streamLoop, Nat.not_lt.mpr hle]⟩
  | @again idx attempts v reads log hlt hm hocc hlim hlog ih =>
    rintro s l rest rfl hs
    simp only [List.map_append, servedAll_append] at hs
    obtain ⟨mid, h1, h2⟩ := hs
    have e : State.takeAll l (s.beginOccupancy b idx attempts) =
        State.takeAll rest ((State.didAll (reads ++ log) s).beginDrain 0) := by
      rw [State.beginOccupancy, State.takeAll_median hm h1, State.didAll_append,
        ← (ih (State.didAll reads s) mid rest (by simp) h2).1 hlt]
      have hocc : s.cfg.chunk - 2 < occupancy s.cfg v := hocc
      simp [State.medianDone, State.occupancyRead, hocc, State.pollGuard, hlim]
    exact ⟨fun _ => e, fun h0 => by subst h0; rw [loop s idx hlt]; exact e⟩
  | @refill idx attempts len v reads log answers hlt hm hocc hlen ha hlog ih =>
    rintro s l rest rfl hs
    simp only [List.map_append, servedAll_append] at hs
    obtain ⟨mid2, ⟨mid1, h1, h2⟩, h3⟩ := hs
    have hocc : occupancy s.cfg v ≤ s.cfg.chunk - 2 := hocc
    have hlen : len = min (b.length - idx) (s.cfg.chunk - occupancy s.cfg v) := hlen
    have hpos : 0 < len := by
      have : 3 ≤ s.cfg.chunk := by simp [Cfg.chunk, fifoHeadroom]; omega
      omega
    have e : State.takeAll l (s.beginOccupancy b idx attempts) = State.takeAll rest
        ((State.didAll (reads ++ refillLog s.cfg ((b.drop idx).take len) answers ++ log) s).beginDrain 0) := by
      have hr := State.takeAll_refill (b := b) (idx := idx) (len := len) (len - 1) (State.didAll reads s) 0 answers mid1 mid2
        (by omega) (by omega) (by omega) (by
          simpa [Nat.sub_add_cancel hpos] using h2)
      rw [State.beginOccupancy, State.takeAll_median hm h1, State.didAll_append, State.didAll_append,
        ← (ih _ mid2 rest (by simp) h3).2 rfl]
      simp only [State.medianDone, State.occupancyRead, State.didAll_cfg, Nat.not_lt.mpr hocc, if_false, ← hlen]
      simpa [Nat.sub_add_cancel hpos] using hr
    exact ⟨fun _ => e, fun h0 => by subst h0; rw [loop s idx hlt]; exact e⟩

/-- The drain poll, served: the operation completes. -/
theorem State.takeAll_drain {c : Cfg} {attempts : Nat} {log : List Exchanged} (h : DrainLog c attempts log) :
    ∀ (s : State) (l rest : List BusSample), s.cfg = c → ServedAll c (log.map Prod.snd) l rest →
      State.takeAll l (s.beginDrain attempts) = State.takeAll rest ((State.didAll log s).finish .done) := by
  induction h with
  | @done attempts v reads ha hd =>
    rintro s l rest rfl hs
    rw [State.beginDrain, State.takeAll_arbiter ha hs]
    simp [State.arbiterDone, State.drainRead, (drained_iff _ v).mpr hd]
  | @again attempts v reads log ha hd hlim hlog ih =>
    rintro s l rest rfl hs
    simp only [List.map_append, servedAll_append] at hs
    obtain ⟨mid, h1, h2⟩ := hs
    rw [State.beginDrain, State.takeAll_arbiter ha h1, State.didAll_append, ← ih _ mid rest (by simp) h2]
    have hd' : drained s.cfg v = false := by simpa using mt (drained_iff _ v).mp hd
    simp [State.arbiterDone, State.drainRead, hd', State.pollGuard, hlim]

end Sys2Proof.Machine
end

