-- ==== Sys2Proof/Laws/Moves.lean ====
section
/-! SUPPORT. Laws/Moves.lean: everything the sequencer can do next, said once: after a transaction of a procedure, and when
it takes one answer of the chip. -/

namespace Sys2Proof.Machine

/-! ### Legal transactions -/

/-- A header's fields decide the form of its bracket. -/
theorem busForm_header (rw burst : Bool) (a : Addr) (data : List Byte) : busForm (header rw burst a) data =
    match rw, burst with
    | false, false => singleWriteForm a data
    | false, true => some (.hdrWrb a data)
    | true, false => if data.all (· == 0) then singleReadForm a data.length else none
    | true, true => if data.all (· == 0) then burstReadForm a data.length else none := by
  obtain ⟨h1, h2, h3⟩ := header_fields rw burst a
  cases rw <;> cases burst <;> simp [busForm, h1, h2, h3]

theorem legalBytes_strobe {c : Cfg} {a : Addr} (h : inStatRange a.toNat = true) : legalBytes c (strobeBytes a) = true := by
  simp [legalBytes, strobeBytes, decodeBus, busForm_header, singleWriteForm, h, legalStrobe]

theorem legalBytes_stat {c : Cfg} {a : Addr} (h : inStatRange a.toNat = true) : legalBytes c (rdstatBytes a) = true := by
  simp [legalBytes, rdstatBytes, dummies, decodeBus, busForm_header, burstReadForm, h, legalReadStat]

theorem legalBytes_read {c : Cfg} {a : Addr} (h : legalReadCfg a.toNat = true) : legalBytes c (rdsBytes a) = true := by
  simp [legalBytes, rdsBytes, dummies, decodeBus, busForm_header, singleReadForm, h]

/-- A writable address is no status address. -/
theorem Cfg.Facts.not_stat {c : Cfg} (hc : Cfg.Facts c) {a : Addr}
    (h : inCfgRange a.toNat = true ∨ isStreamAddr c a.toNat = true) : inStatRange a.toNat = false := by
  rcases h with h | h
  · simp only [inCfgRange, decide_eq_true_eq] at h
    simp [inStatRange]
    omega
  · simp only [isStreamAddr, Bool.or_eq_true, beq_iff_eq] at h
    rcases h with h | h
    · rw [h]; exact hc.aFifo.2
    · rw [h]; exact hc.aPatable.2

theorem legalBytes_write {c : Cfg} (hc : Cfg.Facts c) {a : Addr} (v : Byte) (h : legalWrite c a.toNat = true) :
    legalBytes c (wrsBytes a v) = true := by
  have hs := hc.not_stat (a := a) (by simpa [legalWrite] using h)
  simp [legalBytes, wrsBytes, decodeBus, busForm_header, singleWriteForm, hs, h]

theorem legalBytes_burst {c : Cfg} {a : Addr} {v : List Byte} (hv : v ≠ []) (h : legalBurst c a.toNat v.length = true)
    (hb : v.length ≤ c.burstMax) : legalBytes c (wrbBytes a v) = true := by
  have := List.length_pos_iff.mpr hv
  simp [legalBytes, wrbBytes, decodeBus, busForm_header, h, hb]
  omega

theorem legalBytes_burstRead {c : Cfg} (hc : Cfg.Facts c) {a : Addr} {n : Nat} (hn : n ≠ 0)
    (h : legalBurst c a.toNat n = true) (hb : n ≤ c.burstMax) : legalBytes c (rdbBytes a n) = true := by
  have hs := hc.not_stat (a := a) (by
    simp only [legalBurst, Bool.or_eq_true, Bool.and_eq_true] at h
    exact h.imp And.left id)
  simp [legalBytes, rdbBytes, dummies, decodeBus, busForm_header, burstReadForm, hs, h, hb]
  omega

/-! ### After a transaction -/

/-- What a procedure can do from `s`, where a transaction has ended or nothing was sent yet: complete, complete after
`RESET`'s settling delay, give up polling, or begin a transaction. What it sends is legal, if its position was sound. -/
inductive State.Goes (s : State) (ok : Prop) : State → Prop where
  | finish (r : OpResult) : State.Goes s ok (s.finish r)
  | settled (t : Nat) : State.Goes s ok ((s.pause t).finish .done)
  | raise : State.Goes s ok (s.raise .deviceUnresponsive)
  | begin (pos : Pos) (out : List Byte) (hne : out ≠ [])
      (legal : ok → legalBytes s.cfg out = true ∧ pos.sound s.cfg = true) : State.Goes s ok (s.beginTxn pos out)

variable {s : State} {ok : Prop}

theorem State.goes_strobe {pos : Pos} {a : Addr} (h : ok → inStatRange a.toNat = true ∧ pos.sound s.cfg = true) :
    s.Goes ok (s.beginStrobe pos a) :=
  .begin pos _ (by simp [strobeBytes]) fun hk => ⟨legalBytes_strobe (h hk).1, (h hk).2⟩

theorem State.goes_stat {pos : Pos} {a : Addr} (h : ok → inStatRange a.toNat = true ∧ pos.sound s.cfg = true) :
    s.Goes ok (s.beginStat pos a) :=
  .begin pos _ (by simp [rdstatBytes]) fun hk => ⟨legalBytes_stat (h hk).1, (h hk).2⟩

theorem State.goes_guard {n : Nat} {go : Nat → State → State} (h : s.Goes ok (go (n + 1) s)) :
    s.Goes ok (s.pollGuard n go) := by
  unfold State.pollGuard
  split
  · exact .raise
  · exact h

theorem State.goes_arbiter {use : ArbUse} {a : Addr} (h : ok → inStatRange a.toNat = true ∧ use.sound s.cfg = true) :
    s.Goes ok (s.beginArbiter use a) := State.goes_stat fun hk => ⟨(h hk).1, by simp [Pos.sound, h hk]⟩

theorem State.goes_median {use : MedUse} {a : Addr} (h : ok → inStatRange a.toNat = true) :
    s.Goes ok (s.beginMedian use a) := State.goes_stat fun hk => ⟨h hk, by simp [Pos.sound, h hk]⟩

/-- The configured addresses and strobe codes (00_scope R10). -/
theorem Cfg.Facts.codes {c : Cfg} (hc : Cfg.Facts c) :
    inStatRange c.sReset.toNat = true ∧ inStatRange c.sIdle.toNat = true ∧ inStatRange c.sRx.toNat = true
    ∧ inStatRange c.sTx.toNat = true ∧ inStatRange c.sFlushRx.toNat = true ∧ inStatRange c.sFlushTx.toNat = true
    ∧ inStatRange c.aMarcstate.toNat = true ∧ inStatRange c.aRxbytes.toNat = true ∧ inStatRange c.aTxbytes.toNat = true := by
  have hs := hc.strobe
  have hy := hc.sync
  simp only [Cfg.strobes, Cfg.syncSet, List.mem_cons, List.not_mem_nil, or_false, forall_eq_or_imp, forall_eq] at hs hy
  tauto

theorem State.goes_rearm {r : List Byte} (h : ok → Cfg.Facts s.cfg) : s.Goes ok (s.beginRearm r) :=
  State.goes_strobe fun hk => ⟨(h hk).codes.2.1, rfl⟩

theorem State.goes_receiveBody {m o : Nat} {v : Byte} (h : ok → Cfg.Facts s.cfg ∧ m ≤ s.cfg.burstMax) :
    s.Goes ok (s.receiveBody m o v) := by
  unfold State.receiveBody
  split
  · exact State.goes_rearm fun hk => (h hk).1
  · dsimp only
    split
    · exact State.goes_rearm fun hk => (h hk).1
    · rename_i hn
      exact .begin _ _ (by simp [rdbBytes]) fun hk => ⟨legalBytes_burstRead (h hk).1 hn
        (by simp [legalBurst, isStreamAddr]) (le_trans (min_le_right _ _) (h hk).2), rfl⟩

theorem State.goes_occupancy {b : List Byte} {i n : Nat} (h : ok → Cfg.Facts s.cfg) :
    s.Goes ok (s.beginOccupancy b i n) := State.goes_median fun hk => (h hk).codes.2.2.2.2.2.2.2.2

theorem State.goes_drain {n : Nat} (h : ok → Cfg.Facts s.cfg) : s.Goes ok (s.beginDrain n) :=
  State.goes_arbiter fun hk => ⟨(h hk).codes.2.2.2.2.2.2.1, rfl⟩

theorem State.goes_stream {b : List Byte} {i : Nat} (h : ok → Cfg.Facts s.cfg) : s.Goes ok (s.streamLoop b i) := by
  unfold State.streamLoop
  split
  · exact State.goes_occupancy h
  · exact State.goes_drain h

theorem State.goes_refill {b : List Byte} {i l k : Nat} (h : ok → Cfg.Facts s.cfg) :
    s.Goes ok (s.refillByte b i l k) :=
  .begin _ _ (by simp [wrsBytes]) fun hk => ⟨legalBytes_write (h hk) _ (by simp [legalWrite, isStreamAddr]), rfl⟩

theorem State.goes_arbiterDone {use : ArbUse} {v : Byte} (h : ok → Cfg.Facts s.cfg ∧ use.sound s.cfg = true) :
    s.Goes ok (s.arbiterDone use v) := by
  cases use with
  | readReg => exact .finish _
  | rxOcc m => exact State.goes_arbiter fun hk => ⟨(h hk).1.codes.2.2.2.2.2.2.1, (h hk).2⟩
  | rxMarc m o => exact State.goes_receiveBody fun hk => ⟨(h hk).1, by simpa [ArbUse.sound] using (h hk).2⟩
  | txUnf b =>
    refine State.goes_strobe fun hk => ⟨(h hk).1.codes.2.1, ?_⟩
    split <;> simpa [Pos.sound, ArbUse.sound] using (h hk).2
  | txDrain n =>
    simp only [State.arbiterDone, State.drainRead]
    split
    · exact .finish _
    · exact State.goes_guard (State.goes_drain fun hk => (h hk).1)

theorem State.goes_medianDone {use : MedUse} {v : Byte} (h : ok → Cfg.Facts s.cfg) : s.Goes ok (s.medianDone use v) := by
  cases use with
  | readMed3 => exact .finish _
  | txOcc b i n =>
    simp only [State.medianDone, State.occupancyRead]
    split
    · exact State.goes_guard (State.goes_occupancy h)
    · exact State.goes_refill h

/-- Everything a procedure can do after the transaction at a position. -/
theorem State.goes_resume (pos : Pos) (inn : List Byte) (s : State) :
    s.Goes (Cfg.Facts s.cfg ∧ pos.sound s.cfg = true) (s.resume pos inn) := by
  cases pos <;> simp only [State.resume]
  case strobe | write | readOne | readMany | rxRestart => exact .finish _
  case chipReset => exact .settled _
  case arbFirst use a =>
    exact State.goes_stat fun hk => by
      have := hk.2
      simp only [Pos.sound, Bool.and_eq_true] at this ⊢
      exact ⟨this.1, this⟩
  case arbNext use a vp n =>
    split
    · exact State.goes_arbiterDone fun hk => ⟨hk.1, by have := hk.2; simp only [Pos.sound, Bool.and_eq_true] at this; exact this.2⟩
    · refine State.goes_guard (State.goes_stat fun hk => ?_)
      have := hk.2
      simp only [Pos.sound, Bool.and_eq_true] at this ⊢
      exact ⟨this.1, this⟩
  case med0 | med1 =>
    exact State.goes_stat fun hk => by have := hk.2; simp only [Pos.sound] at this ⊢; exact ⟨this, this⟩
  case med2 => exact State.goes_medianDone fun hk => hk.1
  case rxData => exact State.goes_rearm fun hk => hk.1
  case rxIdle => exact State.goes_strobe fun hk => ⟨hk.1.codes.2.2.2.2.1, rfl⟩
  case rxFlush => exact State.goes_strobe fun hk => ⟨hk.1.codes.2.2.1, rfl⟩
  case txFirstIdle => exact State.goes_arbiter fun hk => ⟨hk.1.codes.2.2.2.2.2.2.2.2, hk.2⟩
  case txUnfIdle => exact State.goes_strobe fun hk => ⟨hk.1.codes.2.2.2.2.2.1, hk.2⟩
  case txFlush => exact State.goes_strobe fun hk => ⟨hk.1.codes.2.1, hk.2⟩
  case txIdle b =>
    refine .begin _ _ (by simp [wrbBytes]) fun hk => ?_
    have hb : 0 < b.length := by have := hk.2; simp [Pos.sound] at this; exact List.length_pos_of_ne_nil this
    have hf := hk.1.fifo
    have hbm := hk.1.burst
    have hch : s.cfg.chunk = s.cfg.fifoSize - 3 := rfl
    have hl : (b.take (min b.length s.cfg.chunk)).length = min b.length s.cfg.chunk := by simp
    refine ⟨legalBytes_burst ?_ (by simp [legalBurst, isStreamAddr]) (by omega), rfl⟩
    rw [← List.length_pos_iff, hl]
    omega
  case txLoad => exact State.goes_strobe fun hk => ⟨hk.1.codes.2.2.2.1, rfl⟩
  case txStart => exact State.goes_stream fun hk => hk.1
  case txByte =>
    split
    · exact State.goes_refill fun hk => hk.1
    · exact State.goes_stream fun hk => hk.1

/-! ### Taking one answer -/

/-- Everything the block can do with one answer while the transaction `q` waits. -/
inductive State.Takes (s : State) (q : Seq) (a : BusSample) : State → Prop where
  /-- `RDY` sampled 0, within `POLL_LIMIT`. -/
  | notReady : q.txn.ready = false → a.rdy = false → withinLimit s.cfg (q.txn.attempts + 1) →
      State.Takes s q a (s.setTxn q.pos { q.txn with attempts := q.txn.attempts + 1 })
  /-- `RDY` sampled 0 once too often. -/
  | gaveUp : q.txn.ready = false → a.rdy = false → State.Takes s q a (s.raise .deviceUnresponsive)
  /-- `RDY` sampled 1. -/
  | ready : q.txn.ready = false → a.rdy = true →
      State.Takes s q a ((s.emit .ready).setTxn q.pos { q.txn with ready := true })
  /-- The exchange failed. -/
  | failed : q.txn.ready = true → a.fail = true →
      State.Takes s q a ((s.emit (.exchangeFailed q.txn.bytesOut)).raise .transportFault)
  /-- A byte arrived, more are to come. -/
  | byte : q.txn.ready = true → a.fail = false → q.txn.got.length + 1 < q.txn.bytesOut.length →
      State.Takes s q a (s.setTxn q.pos { q.txn with got := q.txn.got ++ [a.data] })
  /-- The last byte arrived. -/
  | last : q.txn.ready = true → a.fail = false → q.txn.bytesOut.length ≤ q.txn.got.length + 1 →
      State.Takes s q a ((s.endTxn q.txn.bytesOut (q.txn.got ++ [a.data])).resume q.pos (q.txn.got ++ [a.data]))

theorem State.takeSample_takes {s : State} {q : Seq} (h : s.seq = some q) (a : BusSample) :
    s.Takes q a (s.takeSample a) := by
  obtain ⟨pos, t⟩ := q
  simp only [State.takeSample, h]
  by_cases hr : t.ready = true
  · rw [if_pos hr]
    by_cases hf : a.fail = true
    · rw [if_pos hf]; exact .failed hr hf
    · rw [if_neg hf]
      have hf : a.fail = false := by simpa using hf
      by_cases hl : t.got.length + 1 < t.bytesOut.length
      · rw [if_pos (by simpa using hl)]; exact .byte hr hf hl
      · rw [if_neg (by simpa using hl)]; exact .last hr hf (by simpa using hl)
  · rw [if_neg hr]
    have hr : t.ready = false := by simpa using hr
    by_cases hd : a.rdy = true
    · rw [if_pos hd]; exact .ready hr hd
    · rw [if_neg hd]
      have hd : a.rdy = false := by simpa using hd
      unfold State.pollGuard
      split
      · exact .gaveUp hr hd
      · rename_i hl; exact .notReady hr hd (by simpa using hl)

/-! ### Between operations -/

/-- `t` differs from `s` at most in the host's own elements, and in one gap the host let pass. -/
def State.HostSide (s t : State) : Prop :=
  ∃ ctr mode task pending sessionResult, ∃ gap : List BusEvent, (gap = [] ∨ ∃ n, gap = [.wait n])
    ∧ t = { s with ctr := ctr, mode := mode, task := task, pending := pending, sessionResult := sessionResult
                   trace := gap ++ s.trace }

/-- Everything the machine can do between operations. -/
inductive State.PortMove (s : State) : Host.Outcome State Fault Refusal → Prop where
  /-- An operation is issued. -/
  | run {t : State} (i : Instr) : s.HostSide t → State.PortMove s (exec i t)
  /-- A word outside the tables is issued. -/
  | illegal {t : State} (code : FaultCode) : code ≠ .configMismatch → s.HostSide t →
      State.PortMove s (issue t (State.raise code))
  /-- The host goes on by itself, or nothing happens. -/
  | host {t : State} : s.HostSide t → State.PortMove s (.next t)
  | blockReset {t : State} : s.HostSide t → State.PortMove s (.next t.blockReset)
  | refused (r : Refusal) : State.PortMove s (.refused r)

theorem State.HostSide.of {s : State} (ctr : Byte) (mode : Mode) (task : Option SessionTask) (pending : List Request)
    (sessionResult : Option SessionResult) : s.HostSide { s with
      ctr := ctr, mode := mode, task := task, pending := pending, sessionResult := sessionResult } :=
  ⟨ctr, mode, task, pending, sessionResult, [], .inl rfl, rfl⟩

/-- What the host issues in a sequence is an operation. -/
theorem State.portMove_issueFor {s : State} (ctr : Byte) (mode : Mode) (pending : List Request)
    (sr : Option SessionResult) (tk : Option SessionTask) (t : SessionTask) (i : Instr) :
    s.PortMove (State.issueFor t i { s with ctr := ctr, mode := mode, task := tk, pending := pending, sessionResult := sr }) :=
  .run i (.of ctr mode (some t) pending sr)

theorem State.portMove_endSession {s : State} (ctr : Byte) (mode : Mode) (pending : List Request)
    (sr : Option SessionResult) (tk : Option SessionTask) (r : SessionResult) :
    s.PortMove (State.endSession r { s with ctr := ctr, mode := mode, task := tk, pending := pending, sessionResult := sr }) :=
  .host (.of ctr mode none pending (some r))

theorem State.portMove_receiveEntering {s : State} (pending : List Request) (sr : Option SessionResult)
    (left : List Instr) :
    s.PortMove (State.receiveEntering left { s with pending := pending, sessionResult := sr }) := by
  cases left <;> exact State.portMove_issueFor s.ctr s.mode pending sr s.task _ _

theorem State.portMove_sessionStep (t : SessionTask) (r : OpResult) (s : State) : s.PortMove (s.sessionStep t r) := by
  have iss : ∀ t i, s.PortMove (State.issueFor t i s) := fun t i =>
    State.portMove_issueFor s.ctr s.mode s.pending s.sessionResult s.task t i
  have fin : ∀ r, s.PortMove (State.endSession r s) := fun r =>
    State.portMove_endSession s.ctr s.mode s.pending s.sessionResult s.task r
  have rxu : ∀ retried m, s.PortMove (s.rxUntil retried m) := by
    intro retried m
    unfold State.rxUntil
    split
    · exact State.portMove_endSession s.ctr .receiving s.pending s.sessionResult s.task _
    · exact iss _ _
  have txe : ∀ cmd f left, s.PortMove (s.sendEntering cmd f left) := by
    intro cmd f left
    cases left with
    | nil => exact State.portMove_issueFor s.ctr .transmitReady s.pending s.sessionResult s.task _ _
    | cons i rest => exact iss _ _
  have pre : ∀ p left, s.PortMove (s.pollRearming p left) := by
    intro p left
    cases left with
    | nil => exact fin _
    | cons i rest => exact iss _ _
  have rxe : ∀ left, s.PortMove (s.receiveEntering left) := fun left =>
    State.portMove_receiveEntering s.pending s.sessionResult left
  have xit : s.PortMove s.exitTransmit := iss _ _
  unfold State.sessionStep
  split
  case h_1 | h_2 => exact State.portMove_issueFor (s.ctr + 1) s.mode s.pending s.sessionResult s.task _ _
  case h_3 => exact txe _ _ _
  case h_4 => exact xit
  case h_5 => exact txe _ _ _
  case h_6 =>
    split
    · exact .run _ ⟨s.ctr, s.mode, _, s.pending, s.sessionResult, [.wait _], .inr ⟨_, rfl⟩, rfl⟩
    · exact xit
  case h_7 => exact State.portMove_endSession s.ctr .idle s.pending s.sessionResult s.task _
  all_goals first
    | exact fin _
    | exact rxe _
    | exact iss _ _
    | exact rxu _ _
    | exact pre _ _
    | exact .refused _
    | (split <;> first | exact iss _ _ | exact rxu _ _ | exact fin _)

theorem State.portMove_sessionMove (t : SessionTask) (s : State) : s.PortMove (s.sessionMove t) := by
  unfold State.sessionMove
  split
  · exact State.portMove_sessionStep _ _ _
  · exact .refused _

/-- A move of the host's sequence with a request taken is one of the state before. -/
theorem State.PortMove.of_pending {s : State} {rest : List Request} {o : Host.Outcome State Fault Refusal}
    (h : State.PortMove { s with pending := rest } o) : s.PortMove o := by
  have host : ∀ {t : State}, State.HostSide { s with pending := rest } t → s.HostSide t := by
    rintro t ⟨c, m, tk, p, sr, gap, hg, rfl⟩
    exact ⟨c, m, tk, p, sr, gap, hg, rfl⟩
  cases h with
  | run i h => exact .run i (host h)
  | illegal code hc h => exact .illegal code hc (host h)
  | host h => exact .host (host h)
  | blockReset h => exact .blockReset (host h)
  | refused r => exact .refused r

theorem State.portMove_goOn (s : State) : s.PortMove s.goOn := by
  unfold State.goOn
  split
  · exact State.portMove_sessionMove _ _
  · exact .host (.of s.ctr s.mode s.task s.pending s.sessionResult)

/-- Everything a word does. -/
theorem State.portMove_runWord (w : PortWord) (s : State) : s.PortMove (s.runWord w) := by
  have same : s.HostSide s := .of s.ctr s.mode s.task s.pending s.sessionResult
  unfold State.runWord
  split
  · exact .run _ same
  · unfold State.rejectWord
    split <;> exact .illegal _ (by simp) same

/-- Everything a session call does. -/
theorem State.portMove_beginSession (c : SessionCall) (s : State) : s.PortMove (s.beginSession c) := by
  cases c with
  | send cmd => exact State.portMove_issueFor (s := s) s.ctr s.mode s.pending none s.task _ _
  | enterReceive => exact State.portMove_receiveEntering (s := s) s.pending none (enterReceiveOps s.cfg)
  | poll =>
    simp only [State.beginSession]
    split
    · exact State.portMove_issueFor s.ctr s.mode s.pending none s.task _ _
    · exact .refused _

/-- Everything a step does while no operation is in flight. -/
theorem State.portMove_cases (s : State) : s.PortMove s.portMove := by
  unfold State.portMove
  split
  · exact .blockReset (.of s.ctr s.mode s.task _ s.sessionResult)
  · exact (State.portMove_goOn _).of_pending
  · split
    · exact State.portMove_goOn s
    · exact (State.portMove_runWord _ _).of_pending
  · split
    · exact State.portMove_goOn s
    · exact (State.portMove_beginSession _ _).of_pending
  · exact State.portMove_goOn s

/-! ### One instruction, whatever lies beside it -/

/-- Every instruction is issued with a body that does not look beside the operation. -/
theorem exec_body (i : Instr) : ∃ body : State → State, (∀ s, exec i s = issue s body)
    ∧ ∀ l p n s, body (s.beside l p n) = (body s).beside l p n := by
  cases i <;> refine ⟨_, fun s => (by
    simp only [exec, execReset, execStrobe, execWriteReg, execWriteBurst, execReadReg, execReadMed3, execReadBurst,
      execReceiveFifo, execTransmitFifo, execStatusDecode, execEncode, execDecode, execDeclen, execCsumGen, execCsumChk,
      execChkCmp, execFindCmd, execBuildPayload, execBuildFrame, execParse, execCfgId, execHdrStrobe, execHdrWrs,
      execHdrWrb, execHdrRds, execHdrRdstat, execHdrRdb]
    rfl), fun l p n s => ?_⟩
  case reset =>
    have h : ∀ ps (s : State), State.pulses ps (s.beside l p n) = (State.pulses ps s).beside l p n := by
      intro ps
      induction ps with
      | nil => intro s; rfl
      | cons x ps ih =>
        intro s
        cases hx : x.1 <;> simp only [State.pulses, hx, ← ih] <;> rfl
    rw [show (s.beside l p n).cfg = s.cfg from rfl, h]
    rfl
  case statusDecode =>
    rw [show (s.beside l p n).status = s.status from rfl]
    split
    · rfl
    · exact State.raise_beside l p n _ s
  case buildPayload cmd ctr =>
    rw [show (s.beside l p n).ident = s.ident from rfl, show (s.beside l p n).sig = s.sig from rfl]
    split
    · rfl
    · exact State.raise_beside l p n _ s
  case readReg a k =>
    cases k
    · exact State.ensure_beside l p n rfl
    · refine State.ensure_beside l p n (go := fun s => if inSyncSet s.cfg (field6 a) then _ else _) ?_
      simp only [apply_ite (State.beside l p n)]
      rfl
  case writeBurst | readBurst | hdrWrb | hdrRdb =>
    refine State.ensure_beside l p n (State.ensure_beside l p n ?_)
    simp only [apply_ite (State.beside l p n)]
    rfl
  case buildFrame => exact State.ensure_beside l p n (State.ensure_beside l p n rfl)
  case declen | cfgId => rfl
  all_goals exact State.ensure_beside l p n rfl

/-- Requests in line and the count of free answers play no part in an instruction, and it leaves them as they are. -/
theorem exec_beside {i : Instr} {s t : State} (p : List Request) (n : Nat) (h : exec i s = .next t) :
    exec i (s.beside s.inbox p n) = .next (t.beside t.inbox p n) := by
  obtain ⟨body, hx, hbody⟩ := exec_body i
  rw [hx] at h ⊢
  obtain ⟨hb, ⟨hf, rfl⟩ | ⟨hf, rfl⟩⟩ := issue_next_cases h
  · rw [issue_of_accepting (s := s.beside s.inbox p n) ⟨hb, hf⟩]
    rw [show (s.beside s.inbox p n).accept = s.accept.beside s.accept.inbox p n from rfl, hbody]
    have hi : (body s.accept).inbox = s.accept.inbox := by
      have := congrArg State.inbox (hbody s.accept.inbox s.accept.pending s.accept.drawn s.accept)
      exact this
    rw [← hi]
    exact congrArg _ (State.takeAll_beside _ p n _ (body s.accept))
  · rw [issue_of_faulted (s := s.beside s.inbox p n) hb hf]
    rfl

/-- Answers given beforehand are taken by the instruction as a later step takes them. -/
theorem exec_answers {i : Instr} {s t : State} (l : List BusSample) (n : Nat) (hi : s.inbox = []) (hq : s.seq = none)
    (h : exec i s = .next t) : exec i { s with inbox := l, drawn := n } =
      .next (if t.seq.isSome then State.takeAll l { t with drawn := n } else { t with inbox := l, drawn := n }) := by
  obtain ⟨body, hx, hbody⟩ := exec_body i
  have hs : ({ s with inbox := l, drawn := n } : State) = s.beside l s.pending n := rfl
  rw [hs]
  rw [hx] at h ⊢
  obtain ⟨hb, ⟨hf, rfl⟩ | ⟨hf, rfl⟩⟩ := issue_next_cases h
  · rw [issue_of_accepting (s := s.beside l s.pending n) ⟨hb, hf⟩,
      show (s.beside l s.pending n).accept = s.accept.beside l s.pending n from rfl, hbody]
    have hk : body s.accept = (body s.accept).beside s.inbox s.pending s.drawn := hbody _ _ _ s.accept
    rw [hi] at hk
    generalize body s.accept = b at hk ⊢
    have hset : b.settle = b := by rw [hk]; rfl
    have hn : ({ b with drawn := n } : State) = b.beside [] s.pending n := by rw [hk]; rfl
    have hl : ({ b with inbox := l, drawn := n } : State) = b.beside l s.pending n := by rw [hk]; rfl
    rw [hset, hn, hl, State.takeAll_beside, State.settle, State.takeAll_beside]
    congr 1
    split
    · rfl
    · rename_i hq
      rw [show (b.beside l s.pending n).inbox = l from rfl, State.takeAll_of_idle (by simpa using hq)]
      rfl
  · rw [issue_of_faulted (s := s.beside l s.pending n) hb hf, if_neg (by simp [hq])]
    rfl

/-- The outcome `o'` is `o` with other requests in line. -/
structure WithPending (p : List Request) (o o' : Host.Outcome State Fault Refusal) : Prop where
  next : ∀ t, o = .next t → o' = .next { t with pending := p }
  fault : ∀ f, o = .fault f → o' = .fault f
  refused : ∀ r, o = .refused r → o' = .refused r

theorem exec_withPending (i : Instr) (p : List Request) (s : State) :
    WithPending p (exec i s) (exec i { s with pending := p }) := by
  obtain ⟨body, hx, hbody⟩ := exec_body i
  constructor
  · intro t h
    have hk : t.drawn = s.drawn := by
      rw [hx] at h
      obtain ⟨-, ⟨-, rfl⟩ | ⟨-, rfl⟩⟩ := issue_next_cases h
      · rw [(State.settle_keeps _).drawn, show body s.accept = _ from hbody s.inbox s.pending s.drawn s.accept]
        rfl
      · rfl
    refine (exec_beside p s.drawn h).trans ?_
    rw [← hk]
    rfl
  all_goals
    intro r h
    rw [hx] at h ⊢
    unfold issue at h ⊢
    by_cases hb : s.busy <;> simp_all

/-- A move of the host's running sequence does not look at the requests in line, and keeps them. -/
theorem State.sessionMove_withPending (t : SessionTask) (p : List Request) (s : State) :
    WithPending p (s.sessionMove t) (({ s with pending := p } : State).sessionMove t) := by
  have hexec : ∀ (s s' : State) i, s' = { s with pending := p } → WithPending p (exec i s) (exec i s') := by
    rintro s _ i rfl
    exact exec_withPending i p s
  have hend : ∀ (s s' : State) r, s' = { s with pending := p } →
      WithPending p (s.endSession r) (s'.endSession r) := by
    rintro s _ r rfl
    constructor <;> simp [State.endSession]
  have hrefused : ∀ r, WithPending p (.refused r) (.refused r) := by intro r; constructor <;> simp
  unfold State.sessionMove
  simp only
  split
  · unfold State.sessionStep
    split <;> try simp only [State.exitTransmit, State.sendEntering, State.receiveEntering, State.rxUntil,
      State.pollRearming, State.issueFor]
    all_goals (repeat' split)
    all_goals first
      | exact hexec _ _ _ rfl
      | exact hend _ _ _ rfl
      | exact hrefused _
  · exact hrefused _

/-! ### One step -/

/-- While no operation is in flight and nothing waits for a block reset or a single move, a running sequence makes its
move. -/
theorem State.step_undisturbed {s : State} {t : SessionTask} (hv : s.cfg.valid = true) (hb : s.busy = false)
    (hu : s.undisturbed) (ht : s.task = some t) : step s = s.sessionMove t := by
  have : s.portMove = s.goOn := by
    unfold State.portMove
    split
    · rename_i rest h; exact absurd h (hu rest).1
    · rename_i rest h; exact absurd h (hu rest).2
    all_goals simp [ht]
  simp [step, hv, hb, this, State.goOn, ht]

/-- A step while an operation is in flight and an answer is given. -/
theorem State.step_inFlight {s : State} {q : Seq} {a : BusSample} {rest : List BusSample} (hc : Coherent s)
    (hq : s.seq = some q) (hi : s.inbox = a :: rest) : step s = .next (State.takeAll rest (s.takeSample a)) := by
  have hb : s.busy = true := by rw [hc.2.2.1, hq]; rfl
  simp [step, hc.1, hb, State.chipMove, hi, State.settle, State.takeAll, hq]

/-- What the end of a transaction adds to the bytes written to the FIFO. -/
theorem fifoWritten_endTxn (c : Cfg) (s : State) (h : Byte) (data bytesIn : List Byte) :
    fifoWritten c (s.endTxn (h :: data) bytesIn).trace =
      fifoWritten c s.trace ++ (if hdrRw h = false ∧ hdrAddr h = c.aFifo then data else []) := by
  simp [State.endTxn, State.emit, State.deselect, fifoWritten]

end Sys2Proof.Machine
end

