-- ==== Sys2Proof/Laws/PerInstr.lean ====
section
/-! SUPPORT. Laws/PerInstr.lean: the word of every well-formed instruction lies in its own row of spec/opcode_table.json, one
lemma per instruction. -/

namespace Sys2Proof.Laws.TableRow

open Sys2Proof

/-- The word's first byte, under the row's mask, is the row's match value. -/
def Statement (i : Instr) : Prop := i.wf = true → (encode i).first &&& i.row.2.2 = i.row.2.1

/-- An operation code under the mask of the operation rows. -/
theorem op_mask : ∀ (code : BitVec 5) (m : Byte), code.setWidth 8 = m → code.setWidth 8 &&& (0x1F : Byte) = m := by
  rintro code m rfl
  revert code
  decide

theorem reset : Statement .reset := fun _ => op_mask 0x00 0x00 (by decide)
theorem strobe (code : Byte) : Statement (.strobe code) := fun _ => op_mask 0x01 0x01 (by decide)
theorem writeReg (addr value : Byte) : Statement (.writeReg addr value) := fun _ => op_mask 0x02 0x02 (by decide)
theorem writeBurst (addr : Byte) (v : List Byte) : Statement (.writeBurst addr v) := fun _ => op_mask 0x03 0x03 (by decide)
theorem readReg (addr : Byte) (kind : Bool) : Statement (.readReg addr kind) := fun _ => op_mask 0x04 0x04 (by decide)
theorem readMed3 (addr : Byte) : Statement (.readMed3 addr) := fun _ => op_mask 0x05 0x05 (by decide)
theorem readBurst (addr : Byte) (n : Nat) : Statement (.readBurst addr n) := fun _ => op_mask 0x06 0x06 (by decide)
theorem receiveFifo (maxLen : Nat) : Statement (.receiveFifo maxLen) := fun _ => op_mask 0x07 0x07 (by decide)
theorem transmitFifo (b : List Byte) : Statement (.transmitFifo b) := fun _ => op_mask 0x08 0x08 (by decide)
theorem statusDecode : Statement .statusDecode := fun _ => op_mask 0x09 0x09 (by decide)
theorem encode (p : List Byte) : Statement (.encode p) := fun _ => op_mask 0x10 0x10 (by decide)
theorem decode (w : List Byte) : Statement (.decode w) := fun _ => op_mask 0x11 0x11 (by decide)
theorem declen (l : Nat) : Statement (.declen l) := fun _ => op_mask 0x12 0x12 (by decide)
theorem csumGen (b : List Byte) : Statement (.csumGen b) := fun _ => op_mask 0x13 0x13 (by decide)
theorem csumChk (b : List Byte) : Statement (.csumChk b) := fun _ => op_mask 0x14 0x14 (by decide)
theorem chkCmp (d c : List Byte) : Statement (.chkCmp d c) := fun _ => op_mask 0x15 0x15 (by decide)
theorem findCmd (b : List Byte) : Statement (.findCmd b) := fun _ => op_mask 0x16 0x16 (by decide)
theorem buildPayload (cmd : BitVec 4) (ctr : Byte) : Statement (.buildPayload cmd ctr) := fun _ => op_mask 0x17 0x17 (by decide)
theorem buildFrame (p : List Byte) : Statement (.buildFrame p) := fun _ => op_mask 0x18 0x18 (by decide)
theorem parse (d c : List Byte) : Statement (.parse d c) := fun _ => op_mask 0x19 0x19 (by decide)
theorem cfgId (devType id0 id1 id2 : Byte) : Statement (.cfgId devType id0 id1 id2) := fun _ => op_mask 0x1A 0x1A (by decide)

/-- The header of each access code, under the mask of its rows. -/
theorem header_mask : ∀ a : Addr,
    header false false a &&& 0xC0 = 0x00 ∧ header false true a &&& 0xC0 = 0x40 ∧ header true false a &&& 0xC0 = 0x80
    ∧ header true true a &&& 0xC0 = 0xC0
    ∧ (inStatRange a.toNat = true → header false false a &&& 0xF0 = 0x30 ∧ header true true a &&& 0xF0 = 0xF0) := by
  decide

theorem hdrStrobe (code : Addr) : Statement (.hdrStrobe code) := fun h => ((header_mask code).2.2.2.2 h).1
theorem hdrWrs (addr : Addr) (v : Byte) : Statement (.hdrWrs addr v) := fun _ => (header_mask addr).1
theorem hdrWrb (addr : Addr) (v : List Byte) : Statement (.hdrWrb addr v) := fun _ => (header_mask addr).2.1
theorem hdrRds (addr : Addr) : Statement (.hdrRds addr) := fun _ => (header_mask addr).2.2.1
theorem hdrRdstat (addr : Addr) : Statement (.hdrRdstat addr) := fun h => ((header_mask addr).2.2.2.2 h).2
theorem hdrRdb (addr : Addr) (n : Nat) : Statement (.hdrRdb addr n) := fun _ => (header_mask addr).2.2.2.1

end Sys2Proof.Laws.TableRow
end

