-- ==== Sys2Proof/Tests/Slice0.lean ====
section
/-! SUPPORT. Tests/Slice0.lean: words, single operations and witnesses. Expected values are the spec's: 30_encoding R94,
95_test_vectors (vectors E, DV, K, H, Z and programs PR), or counted by hand from the rule named. -/

namespace Sys2Proof.Machine.Tests

open Sys2Proof Sys2Proof.Machine

/-! ### A small machine -/

/-- 95_test_vectors section 0: profile GK with the invented signature set TS, and frame constants and profiles chosen for
tests only. -/
def gk : Cfg := { Cfg.profileGK with
  preamble := [0xAA, 0xAA], syncMarker := [0xB3, 0x2A], terminator := 0xAC, padByte := 0xAA, padCount := 2
  openSigs := ⟨⟨0, 0, 0, 0, 0xE0, 0x10⟩, ⟨1, 1, 1, 1, 0xE1, 0x11⟩, ⟨3, 3, 3, 3, 0xE3, 0x13⟩, ⟨4, 4, 4, 4, 0xE4, 0x14⟩,
    ⟨5, 5, 5, 5, 0xE5, 0x15⟩, ⟨6, 6, 6, 6, 0xE6, 0x16⟩, ⟨7, 7, 7, 7, 0xE7, 0x17⟩⟩
  aPktlen := 0x06, aSync1 := 0x04, aSync0 := 0x05
  txProfile1 := [.reg 0x10 1], txPatable := [0x6F], txProfile2 := [.packetLength]
  rxProfile := [.packetLength, .sync0, .sync1], rxPatable := [0x6F], rxRearm := [.packetLength, .sync0, .sync1]
  syncWord0 := 0xAA, syncWord1 := 0xAA }

/-- As `gk`, with a FIFO of 6 bytes (`CHUNK` = 3) and `POLL_LIMIT` = 2. -/
def small : Cfg := { gk with fifoSize := 6, pollLimit := some 2 }

/-- The chip is ready at once and answers these bytes. -/
def tx (l : List Byte) : List BusSample := ⟨true, false, 0⟩ :: l.map fun b => ⟨false, false, b⟩

/-- A sample of `RDY` = 0. -/
def notReady : BusSample := ⟨false, false, 0⟩

/-- A block just constructed, with these answers of the chip to come. -/
def block (c : Cfg) (answers : List (List Byte)) : State := { State.fresh c with inbox := (answers.map tx).flatten }

/-- The identity of 95_test_vectors V6. -/
def owner : Identity := ⟨22, 116, 233, 94⟩

def nextOf : Host.Outcome State Fault Refusal → Option State
  | .next s => some s
  | .fault _ => none
  | .refused _ => none

/-- What the operation port returned. -/
def resultOf (o : Host.Outcome State Fault Refusal) : Option OpResult := (nextOf o).bind State.result

/-- The bytes sent, in order, and the result. -/
def sentOf (o : Host.Outcome State Fault Refusal) : Option (List (List Byte) × Option OpResult) :=
  (nextOf o).map fun s => (s.trace.reverse.filterMap BusEvent.sent, s.result)

/-- The LOW payload of V6. -/
def lowPayload : List Byte := [22, 116, 233, 94, 5, 34, 241, 3, 99, 2, 4, 171]

/-! ### Words (30_encoding R94; R80 to R83 and vector H1) -/

theorem test_word_reset : decode (.op 0b00000 []) = .ok .reset := by decide
theorem test_word_strobe : decode (.op 0b00001 [.byte 0x36]) = .ok (.strobe 0x36) := by decide
theorem test_word_write_reg : decode (.op 0b00010 [.byte 0x06, .byte 63]) = .ok (.writeReg 0x06 63) := by decide
theorem test_word_write_burst :
    decode (.op 0b00011 [.byte 0x3E, .bytes [0x6F, 0x26]]) = .ok (.writeBurst 0x3E [0x6F, 0x26]) := by decide
theorem test_word_read_reg : decode (.op 0b00100 [.byte 0x35, .bit true]) = .ok (.readReg 0x35 true) := by decide
theorem test_word_read_med3 : decode (.op 0b00101 [.byte 0x3A]) = .ok (.readMed3 0x3A) := by decide
theorem test_word_read_burst : decode (.op 0b00110 [.byte 0, .nat 3]) = .ok (.readBurst 0 3) := by decide
theorem test_word_receive_fifo : decode (.op 0b00111 [.nat 63]) = .ok (.receiveFifo 63) := by decide
theorem test_word_transmit_fifo : decode (.op 0b01000 [.bytes [1, 2]]) = .ok (.transmitFifo [1, 2]) := by decide
theorem test_word_status_decode : decode (.op 0b01001 []) = .ok .statusDecode := by decide
theorem test_word_encode : decode (.op 0b10000 [.bytes [0x0F]]) = .ok (.encode [0x0F]) := by decide
theorem test_word_decode : decode (.op 0b10001 [.bytes [0, 0]]) = .ok (.decode [0, 0]) := by decide
theorem test_word_declen : decode (.op 0b10010 [.nat 63]) = .ok (.declen 63) := by decide
theorem test_word_csum_gen : decode (.op 0b10011 [.bytes [1]]) = .ok (.csumGen [1]) := by decide
theorem test_word_csum_chk : decode (.op 0b10100 [.bytes [1, 255]]) = .ok (.csumChk [1, 255]) := by decide
theorem test_word_chk_cmp : decode (.op 0b10101 [.bytes [1], .bytes [2]]) = .ok (.chkCmp [1] [2]) := by decide
theorem test_word_find_cmd : decode (.op 0b10110 [.bytes [1]]) = .ok (.findCmd [1]) := by decide
theorem test_word_build_payload : decode (.op 0b10111 [.cmd 2, .byte 5]) = .ok (.buildPayload 2 5) := by decide
theorem test_word_build_frame : decode (.op 0b11000 [.bytes [1]]) = .ok (.buildFrame [1]) := by decide
theorem test_word_parse : decode (.op 0b11001 [.bytes [1], .bytes [2]]) = .ok (.parse [1] [2]) := by decide
theorem test_word_cfg_id : decode (.op 0b11010 [.byte 22, .byte 116, .byte 233, .byte 94]) = .ok (.cfgId 22 116 233 94) := by
  decide
theorem test_word_hdr_strobe : decode (.bus [0x30]) = .ok (.hdrStrobe 0x30) := by decide
theorem test_word_hdr_wrs : decode (.bus [0x06, 0x3F]) = .ok (.hdrWrs 0x06 0x3F) := by decide
theorem test_word_hdr_wrb : decode (.bus [0x40, 7, 8]) = .ok (.hdrWrb 0 [7, 8]) := by decide
theorem test_word_hdr_rds : decode (.bus [0xAE, 0x00]) = .ok (.hdrRds 0x2E) := by decide
theorem test_word_hdr_rdstat : decode (.bus [0xF0, 0x00]) = .ok (.hdrRdstat 0x30) := by decide
theorem test_word_hdr_rdb : decode (.bus [0xC0, 0, 0, 0]) = .ok (.hdrRdb 0 3) := by decide

/-- 30_encoding R95 (a): the codes that select nothing. -/
theorem test_word_illegal : ∀ c : BitVec 5, (c ∈ [0x0A, 0x0F, 0x1B, 0x1F] → decode (.op c []) = .error (.illegalOp c)) := by
  decide

/-- 30_encoding R95 (b): a strobe number with data, an address without its data byte, a status read of two bytes, a dummy
byte that is not 0x00; a strobe with the burst bit is a burst write of an illegal address. -/
theorem test_word_outside_table : (∀ l : List Byte, l ∈ [[0x30, 1], [0x2F], [0x06], [0xB5], [0xF5, 0, 0], [0x86, 1], []] →
    decode (.bus l) = .error (.outsideTable l)) ∧ decode (.bus [0x70]) = .ok (.hdrWrb 0x30 []) := by decide

/-- The host's view: every operation code, and a header of each access code. -/
theorem test_table_words : decodeTableWord 8 0x04 = some (.readReg 0 false) ∧ decodeTableWord 8 0x30 = some (.hdrStrobe 0x30)
    ∧ decodeTableWord 8 0x20 = some (.hdrWrs 0x20 0) ∧ decodeTableWord 8 0x7F = some (.hdrWrb 0x3F [0])
    ∧ decodeTableWord 8 0xAE = some (.hdrRds 0x2E) ∧ decodeTableWord 8 0xF5 = some (.hdrRdstat 0x35)
    ∧ decodeTableWord 8 0xFF = some (.hdrRdb 0x3F 1) ∧ decodeTableWord 8 0x0A = none := by decide

/-- The next step runs the word lined up: `CFG_ID` of zeros, straight after reset. -/
theorem test_fetch_word : (nextOf (step (State.reset.withFetchWord 8 0x1A))).bind State.ident = some ⟨0, 0, 0, 0⟩ := by decide

/-! ### Well-formedness: one ill-formed term for each check -/

theorem test_wf_hdr_strobe : (Instr.hdrStrobe 0x05).wf = false := by decide
theorem test_wf_hdr_wrs : (Instr.hdrWrs 0x35 1).wf = false := by decide
theorem test_wf_hdr_rdstat : (Instr.hdrRdstat 0x06).wf = false := by decide
theorem test_wf_hdr_rdb : (Instr.hdrRdb 0x35 1).wf = false := by decide

/-! ### Operations -/

/-- R130: `CSn` 0, 1, 0, then the strobe `30`; Z1: `STATUS` is its status byte. -/
theorem test_reset : (nextOf (exec .reset (block gk [[0x0F]]))).map (fun s => (s.trace.reverse, s.status)) = some
    ([.deselect, .wait 5, .select, .wait 10, .deselect, .wait 45, .select, .ready, .exchange [0x30] [0x0F], .deselect,
      .wait 10000], some 0x0F) := by decide

/-- R115: `STROBE(0x36)`. -/
theorem test_strobe : sentOf (exec (.strobe 0x36) (block gk [[0x1F]])) = some ([[0x36]], some (.byte 0x1F)) := by decide

/-- H6: three samples of `RDY` = 0 with `POLL_LIMIT` = 2. -/
theorem test_strobe_unresponsive :
    resultOf (exec (.strobe 0x36) { State.fresh small with inbox := [notReady, notReady, notReady] })
      = some (.faulted .deviceUnresponsive) := by decide

/-- R133. -/
theorem test_write_reg : sentOf (exec (.writeReg 0x06 63) (block gk [[1, 2]])) = some ([[0x06, 0x3F]], some .done) := by
  decide

/-- H3: a write to a status address. -/
theorem test_write_reg_status : sentOf (exec (.writeReg 0x35 1) (block gk [])) = some ([], some (.faulted .illegalAccess)) := by
  decide

/-- R140. -/
theorem test_write_burst :
    sentOf (exec (.writeBurst 0x3E [0x6F, 0x26]) (block gk [[1, 2, 3]])) = some ([[0x7E, 0x6F, 0x26]], some .done) := by
  decide

/-- H3: a burst past 0x2E. -/
theorem test_write_burst_past : resultOf (exec (.writeBurst 0x2D [1, 2, 3]) (block gk [])) = some (.faulted .illegalAccess) := by
  decide

/-- PR5. -/
theorem test_read_reg : sentOf (exec (.readReg 0x35 true) (block gk [[1, 0x0D], [2, 0x11], [3, 0x11]]))
    = some ([[0xF5, 0], [0xF5, 0], [0xF5, 0]], some (.byte 0x11)) := by decide

/-- H5: (1, 2, 3, 4, ...) with `POLL_LIMIT` = 2. -/
theorem test_read_reg_limit : resultOf (exec (.readReg 0x35 true) (block small [[0, 1], [0, 2], [0, 3], [0, 4]]))
    = some (.faulted .deviceUnresponsive) := by decide

/-- R135. -/
theorem test_read_med3 : sentOf (exec (.readMed3 0x3A) (block gk [[0, 61], [0, 60], [0, 61]]))
    = some ([[0xFA, 0], [0xFA, 0], [0xFA, 0]], some (.byte 61)) := by decide

/-- H4. -/
theorem test_median : median3 5 200 5 = 5 ∧ median3 3 2 1 = 2 ∧ median3 0 255 128 = 128 ∧ median3 50 52 51 = 51 := by decide

/-- R136. -/
theorem test_read_burst : sentOf (exec (.readBurst 0 3) (block gk [[9, 1, 2, 3]]))
    = some ([[0xC0, 0, 0, 0]], some (.bytes [1, 2, 3])) := by decide

/-- PR4: overflow. -/
theorem test_receive_overflow : sentOf (exec (.receiveFifo 63)
    (block gk [[0, 0xC0], [0, 0xC0], [0, 0x11], [0, 0x11], [1], [2], [3]]))
    = some ([[0xFB, 0], [0xFB, 0], [0xF5, 0], [0xF5, 0], [0x36], [0x3A], [0x34]], some (.bytes [])) := by decide

/-- R137: two bytes there, both read. -/
theorem test_receive_data : sentOf (exec (.receiveFifo 63)
    (block gk [[0, 2], [0, 2], [0, 1], [0, 1], [0, 0xAB, 0x2A], [1], [2], [3]]))
    = some ([[0xFB, 0], [0xFB, 0], [0xF5, 0], [0xF5, 0], [0xFF, 0, 0], [0x36], [0x3A], [0x34]],
      some (.bytes [0xAB, 0x2A])) := by decide

/-- R138 with `CHUNK` = 3 and underflow: five bytes, one refill pass of two. -/
theorem test_transmit : sentOf (exec (.transmitFifo [1, 2, 3, 4, 5]) (block small
    [[0], [0, 0x80], [0, 0x80], [0], [0], [0], [0, 0, 0, 0], [0], [0, 1], [0, 0], [0, 1], [0, 0], [0, 0], [0, 1], [0, 1]]))
    = some ([[0x36], [0xFA, 0], [0xFA, 0], [0x36], [0x3B], [0x36], [0x7F, 1, 2, 3], [0x35], [0xFA, 0], [0xFA, 0],
      [0xFA, 0], [0x3F, 4], [0x3F, 5], [0xF5, 0], [0xF5, 0]], some .done) := by decide

/-- H2 and V5, conflict C2. -/
theorem test_status_decode : resultOf (exec .statusDecode { State.fresh gk with status := some 0x53 })
    = some (.fields false .settling 3) := by decide

/-- Z1. -/
theorem test_status_decode_reset : resultOf (exec .statusDecode (block gk [])) = some (.faulted .illegalOperand) := by decide

/-- E4i and E4j. -/
theorem test_encode : encodeWire 0 [0x12, 0x34] = [0x65, 0xA5, 0x65, 0x9A, 0x96]
    ∧ encodeWire 4 [0x12, 0x34] = [0x95, 0x99, 0x6A, 0x59, 0x66] := by decide +kernel

/-- E4a, with the count. -/
theorem test_encode_count : resultOf (exec (.encode [0x0F]) (block gk [])) = some (.wire [0xAA, 0x95, 0x6A] 3) := by decide +kernel

/-- R189: one corrupted odd bit. -/
theorem test_decode : resultOf (exec (.decode [1, 2, 0xEA, 0x95, 0x6A]) (block gk [])) = some (.decoded [0x0F] [0x0E]) := by
  decide +kernel

/-- DV3, other phase. -/
theorem test_decode_phase : decodeWire 4 [0, 0, 0xAA, 0x95, 0x6A] = ([0xF0], [0xF0]) := by decide +kernel

/-- DV1. -/
theorem test_declen : resultOf (exec (.declen 63) (block gk [])) = some (.length 24)
    ∧ (List.range 16).map declen = [0, 0, 0, 0, 0, 1, 1, 2, 2, 2, 3, 3, 4, 4, 4, 5] := by decide

/-- K1. -/
theorem test_csum_gen : resultOf (exec (.csumGen [22, 116, 233, 94, 5, 34, 241, 3, 99, 2, 4]) (block gk []))
    = some (.byte 171) ∧ checksum [128, 128] = 0 ∧ checksum [255, 255] = 2 := by decide

/-- K2. -/
theorem test_csum_chk : resultOf (exec (.csumChk lowPayload) (block gk [])) = some (.flag true)
    ∧ csumOk [1, 254] = false := by decide

/-- K3. -/
theorem test_chk_cmp : resultOf (exec (.chkCmp [34, 241, 3, 99, 2, 4] [34, 241, 3, 99, 2, 5]) (block gk []))
    = some (.flag false) := by decide

/-- K3: five bytes. -/
theorem test_chk_cmp_short : resultOf (exec (.chkCmp [1, 2, 3, 4, 5] [1, 2, 3, 4, 5, 6]) (block gk []))
    = some (.faulted .illegalOperand) := by decide

/-- K4. -/
theorem test_find_cmd : resultOf (exec (.findCmd [0, 0, 0, 0, 2, 4]) (block gk [])) = some (.command .low)
    ∧ findCommand gk.sig 4 2 = .unknown ∧ findCommand gk.sig 0xE7 0x17 = .timer3 := by decide

/-- K4, R208: a repeated pair gives the first command in code order. -/
theorem test_find_cmd_repeated : findCommand { gk.sig with join := ⟨9, 9, 9, 9, 2, 4⟩ } 2 4 = .join := by decide

/-- K5. -/
theorem test_build_payload : resultOf (exec (.buildPayload 2 5) { State.fresh gk with ident := some owner })
    = some (.bytes lowPayload) := by decide

/-- K5: before `CFG_ID`. -/
theorem test_build_payload_no_id : resultOf (exec (.buildPayload 2 5) (block gk [])) = some (.faulted .illegalOperand) := by
  decide

/-- R211: the parts in order. -/
theorem test_build_frame : resultOf (exec (.buildFrame [0xFF]) (block gk []))
    = some (.bytes [0xAA, 0xAA, 0xB3, 0x2A, 0xAA, 0xAA, 0xAA, 0xAC, 0xAA, 0xAA]) := by decide +kernel

/-- K6. -/
theorem test_parse : resultOf (exec (.parse lowPayload lowPayload) (block gk [])) = some (.packet (some
    ⟨22, [116, 233, 94], 5, [34, 241, 3, 99, 2, 4], [34, 241, 3, 99, 2, 4], .low, true, true⟩)) := by decide

/-- DV7: a data bit and its check bit both corrupted: still LOW, with a wrong checksum. -/
theorem test_parse_weak_match :
    (parsePacket gk.sig (lowPayload.set 5 2) (lowPayload.set 5 2)).map (fun p => (p.command, p.chkOk, p.csumOk))
      = some (.low, true, false) := by decide

/-- R215. -/
theorem test_cfg_id : (nextOf (exec (.cfgId 22 116 233 94) (block gk []))).bind State.ident = some owner := by decide

/-- R115. -/
theorem test_hdr_strobe : sentOf (exec (.hdrStrobe 0x36) (block gk [[0x1F]])) = some ([[0x36]], some (.byte 0x1F)) := by decide

/-- R116. -/
theorem test_hdr_wrs : sentOf (exec (.hdrWrs 0x3F 0xAA) (block gk [[0x0E, 0x0D]])) = some ([[0x3F, 0xAA]], some .done) := by
  decide

/-- R117. -/
theorem test_hdr_wrb : sentOf (exec (.hdrWrb 0x3F [1, 2, 3]) (block gk [[1, 2, 3, 4]]))
    = some ([[0x7F, 1, 2, 3]], some .done) := by decide

/-- R118. -/
theorem test_hdr_rds : sentOf (exec (.hdrRds 0x06) (block gk [[0x0F, 0x3F]])) = some ([[0x86, 0]], some (.byte 0x3F)) := by
  decide

/-- R119: one read, of an erratum register too. -/
theorem test_hdr_rdstat : sentOf (exec (.hdrRdstat 0x35) (block gk [[0x1F, 0x0D]])) = some ([[0xF5, 0]], some (.byte 0x0D)) := by
  decide

/-- R120. -/
theorem test_hdr_rdb : sentOf (exec (.hdrRdb 0x3F 3) (block gk [[0x13, 0xAB, 0x2A, 0x66]]))
    = some ([[0xFF, 0, 0, 0]], some (.bytes [0xAB, 0x2A, 0x66])) := by decide

/-- PR6: a stored fault is returned, before the access check. -/
theorem test_stored_fault : resultOf (exec (.writeReg 0x35 1) { State.fresh gk with fault := .deviceUnresponsive })
    = some (.faulted .deviceUnresponsive) := by decide

/-- K7: `SEND` at `CTR` = 255 leaves 0. -/
theorem test_counter_wraps : (nextOf (step { State.fresh gk with
    ctr := 255, task := some (.sendPayload 2), result := some (.bytes lowPayload) })).map State.ctr = some 0 := by decide +kernel

/-- R233, R276: after a fault `SEND` still ends Idle and returns nothing; `POLL` yields no packet. -/
theorem test_fault_is_silent :
    (nextOf (step { State.fresh gk with
      mode := .transmitReady, fault := .transportFault, task := some .sendExit, result := some (.faulted .transportFault) })).map
      (fun s => (s.mode, s.sessionResult)) = some (.idle, some .sent)
    ∧ (nextOf (step { State.fresh gk with
      mode := .receiving, fault := .transportFault, task := some .pollReceive,
      result := some (.faulted .transportFault) })).map (fun s => (s.mode, s.sessionResult))
        = some (.receiving, some (.polled none)) := by decide

/-! ### Witnesses: states and operands that meet each statement's hypotheses, all of them together -/

/-- The chip serves a transaction at once. -/
theorem served_tx (c : Cfg) (l : List Byte) (rest : List BusSample) : Served c l (tx l ++ rest) rest :=
  ⟨[], ⟨true, false, 0⟩, l.map fun b => ⟨false, false, b⟩, by simp [tx], by simp, by
    cases h : c.pollLimit <;> simp [withinLimit, passesLimit, h], rfl, by simp, by simp [Function.comp_def]⟩

/-- The chip serves a list of transactions at once. -/
theorem servedAll_tx (c : Cfg) (ls : List (List Byte)) : ServedAll c ls ((ls.map tx).flatten) [] := by
  induction ls with
  | nil => rfl
  | cons l ls ih => exact ⟨(ls.map tx).flatten, by simpa using served_tx c l _, ih⟩

/-- A transaction served with as many waits as `POLL_LIMIT` = 2 allows. -/
theorem served_waits : Served small [0x1F] ([notReady, notReady] ++ tx [0x1F]) [] :=
  ⟨[notReady, notReady], ⟨true, false, 0⟩, [⟨false, false, 0x1F⟩], rfl, by decide, by decide, rfl, by decide, rfl⟩

/-- A constructed block is coherent whatever is lined up for it. -/
theorem coherent_fresh (c : Cfg) (h : c.valid = true) (p : List Request) (l : List BusSample) :
    Coherent { State.fresh c with pending := p, inbox := l } :=
  ⟨h, rfl, rfl, rfl, fun hf => absurd rfl hf, by simp [State.fresh], by simp [State.fresh]⟩

theorem gk_valid : gk.valid = true := by decide
theorem small_valid : small.valid = true := by decide

/-- The small block with a transaction in flight, and answers to come. -/
def flying (pos : Pos) (txn : Txn) (answers : List BusSample) : State := { State.fresh small with
  csn := true, busy := true, seq := some ⟨pos, txn⟩, inbox := answers }

theorem flying_coherent {pos : Pos} {txn : Txn} {answers : List BusSample} (h : txn.sound small) :
    Coherent (flying pos txn answers) :=
  ⟨small_valid, rfl, rfl, rfl, fun hf => absurd rfl hf, by simp [flying, State.fresh], by rintro q hq; cases hq; exact h⟩

theorem witness_DecodeOfEncode : (Instr.parse [] []).wf = true ∧ (Instr.hdrStrobe 0x3D).wf = true
    ∧ (Instr.hdrWrs 0x3E 1).wf = true ∧ (Instr.hdrWrb 0x2E [1]).wf = true ∧ (Instr.hdrRdb 0x2F 1).wf = true := by decide

theorem witness_EncodeOfDecode : decode (.op 0b00101 [.byte 0xFF]) = .ok (.readMed3 0xFF)
    ∧ decode (.bus [0xFD, 0x00]) = .ok (.hdrRdstat 0x3D) ∧ decode (.bus [0xFE, 0x00]) = .ok (.hdrRdb 0x3E 1) := by decide

/-- A word lined up, with one behind it. -/
def linedUp (w : PortWord) : State := { State.fresh gk with pending := [.word w, .blockReset] }

theorem witness_StepRunsTheDecodedInstruction : (linedUp (.op 0b01001 [])).cfg.valid = true
    ∧ (linedUp (.op 0b01001 [])).busy = false ∧ (linedUp (.op 0b01001 [])).task = none
    ∧ (linedUp (.op 0b01001 [])).pending = .word (.op 0b01001 []) :: [.blockReset]
    ∧ decode (.op 0b01001 []) = .ok .statusDecode := by decide

theorem witness_WordsOutsideTheTableRaise_code : Coherent (linedUp (.op 0x0A []))
    ∧ (linedUp (.op 0x0A [])).accepting ∧ (linedUp (.op 0x0A [])).task = none
    ∧ (linedUp (.op 0x0A [])).pending = .word (.op 0x0A []) :: [.blockReset]
    ∧ (0x0A ≤ (0x0A : BitVec 5).toNat ∧ (0x0A : BitVec 5).toNat ≤ 0x0F ∨ 0x1B ≤ (0x0A : BitVec 5).toNat) :=
  ⟨coherent_fresh gk gk_valid _ _, by decide, rfl, rfl, by decide⟩

theorem witness_WordsOutsideTheTableRaise_last : Coherent (linedUp (.op 0x1F []))
    ∧ (linedUp (.op 0x1F [])).accepting ∧ 0x1B ≤ (0x1F : BitVec 5).toNat :=
  ⟨coherent_fresh gk gk_valid _ _, by decide, by decide⟩

/-- A code of the table without its operand. -/
theorem witness_WordsOutsideTheTableRaise_operands : Coherent (linedUp (.op 0x01 []))
    ∧ (linedUp (.op 0x01 [])).accepting
    ∧ ¬ (0x0A ≤ (0x01 : BitVec 5).toNat ∧ (0x01 : BitVec 5).toNat ≤ 0x0F ∨ 0x1B ≤ (0x01 : BitVec 5).toNat)
    ∧ ∀ i, encode i ≠ .op 0x01 [] :=
  ⟨coherent_fresh gk gk_valid _ _, by decide, by decide, fun i => by cases i <;> simp [encode]⟩

/-- A header's fields, read back from its byte. -/
theorem header_eq {rw burst rw' burst' : Bool} {a a' : Addr} (h : header rw burst a = header rw' burst' a') :
    rw = rw' ∧ burst = burst' ∧ a = a' := by
  obtain ⟨h1, h2, h3⟩ := header_fields rw burst a
  obtain ⟨h1', h2', h3'⟩ := header_fields rw' burst' a'
  rw [h] at h1 h2 h3
  exact ⟨h1.symm.trans h1', h2.symm.trans h2', h3.symm.trans h3'⟩

/-- R95 (b): a strobe number with a data byte, and a strobe with the burst bit. -/
theorem witness_WordsOutsideTheTableRaise_bracket :
    Coherent (linedUp (.bus [0x30, 1])) ∧ (linedUp (.bus [0x30, 1])).accepting ∧ (linedUp (.bus [0x30, 1])).task = none
    ∧ (linedUp (.bus [0x30, 1])).pending = .word (.bus [0x30, 1]) :: [.blockReset] ∧ [0x30, 1].length ≤ gk.burstMax + 1
    ∧ ¬ InTable gk [0x30, 1] ∧ ¬ InTable gk [0x70] ∧ ¬ InTable gk [] := by
  refine ⟨coherent_fresh gk gk_valid _ _, by decide, rfl, rfl, by decide, ?_, ?_, by simp [InTable]⟩
  · rintro (⟨a, -, -, h⟩ | ⟨a, v, ha, h⟩ | ⟨a, v, -, h⟩ | ⟨a, -, h⟩ | ⟨a, -, -, h⟩ | ⟨a, n, -, h⟩)
    · simp at h
    · obtain ⟨-, -, rfl⟩ := header_eq (rw := false) (burst := false) (a := 0x30) (List.cons.inj h).1
      exact absurd ha (by decide)
    · simpa using (header_eq (rw := false) (burst := false) (a := 0x30) (List.cons.inj h).1).2.1
    · simpa using (header_eq (rw := false) (burst := false) (a := 0x30) (List.cons.inj h).1).1
    · simpa using (header_eq (rw := false) (burst := false) (a := 0x30) (List.cons.inj h).1).1
    · simpa using (header_eq (rw := false) (burst := false) (a := 0x30) (List.cons.inj h).1).1
  · rintro (⟨a, -, -, h⟩ | ⟨a, v, -, h⟩ | ⟨a, v, ha, h⟩ | ⟨a, -, h⟩ | ⟨a, -, -, h⟩ | ⟨a, n, -, h⟩)
    · simpa using (header_eq (rw := false) (burst := true) (a := 0x30) (List.cons.inj h).1).2.1
    · simp at h
    · obtain ⟨-, -, rfl⟩ := header_eq (rw := false) (burst := true) (a := 0x30) (List.cons.inj h).1
      obtain rfl := (List.cons.inj h).2
      exact absurd ha (by decide)
    · simp at h
    · simp at h
    · simpa using (header_eq (rw := false) (burst := true) (a := 0x30) (List.cons.inj h).1).1

theorem witness_ResetCompletes : (block gk [[0x0F]]).accepting ∧ Served (block gk [[0x0F]]).cfg [0x0F] (block gk [[0x0F]]).inbox [] :=
  ⟨by decide, served_tx _ _ _⟩

theorem witness_StrobeCompletes : (block gk [[0x1F]]).accepting
    ∧ Served (block gk [[0x1F]]).cfg [0x1F] (block gk [[0x1F]]).inbox []
    ∧ (0x30 ≤ (0x30 : Byte).toNat ∧ (0x3D : Byte).toNat ≤ 0x3D) ∧ (0x30 ≤ (0x3D : Addr).toNat ∧ (0x3D : Addr).toNat ≤ 0x3D) :=
  ⟨by decide, served_tx _ _ _, by decide, by decide⟩

theorem witness_WriteRegCompletes : (block gk [[1, 2]]).accepting
    ∧ Served (block gk [[1, 2]]).cfg [1, 2] (block gk [[1, 2]]).inbox []
    ∧ WritableAddr gk (0x2E : Byte).toNat ∧ WritableAddr gk (0x3F : Byte).toNat ∧ WritableAddr gk (0x3E : Addr).toNat :=
  ⟨by decide, served_tx _ _ _, by decide, by decide, by decide⟩

theorem witness_WriteBurstCompletes : (block gk [[1, 2, 3]]).accepting
    ∧ Served (block gk [[1, 2, 3]]).cfg (1 :: [2, 3]) (block gk [[1, 2, 3]]).inbox []
    ∧ [2, 3].length = [8, 9].length ∧ ([8, 9] : List Byte) ≠ [] ∧ [8, 9].length ≤ gk.burstMax
    ∧ BurstAddr gk (0x2D : Byte).toNat [8, 9].length ∧ BurstAddr gk (0x3F : Addr).toNat [8, 9].length :=
  ⟨by decide, served_tx _ _ _, by decide, by decide, by decide, by decide, by decide⟩

theorem witness_EmptyBurstsTouchNoBus : (block gk []).accepting ∧ BurstAddr gk (0x2E : Byte).toNat 0
    ∧ BurstAddr gk (0x3E : Byte).toNat 0 ∧ BurstAddr gk (0x2E : Addr).toNat 0 ∧ BurstAddr gk (0x3F : Addr).toNat 0 := by decide

theorem witness_PlainReadCompletes : (block gk [[1, 2]]).accepting
    ∧ Served (block gk [[1, 2]]).cfg [1, 2] (block gk [[1, 2]]).inbox [] ∧ (0x2E : Byte).toNat ≤ 0x2E
    ∧ (0x30 ≤ (0x30 : Byte).toNat ∧ (0x30 : Byte).toNat ≤ 0x3D ∧ (0x30 : Byte).setWidth 6 ∉ gk.syncSet)
    ∧ (0x30 ≤ (0x3D : Byte).toNat ∧ (0x3D : Byte).toNat ≤ 0x3D ∧ (0x3D : Byte).setWidth 6 ∉ gk.syncSet)
    ∧ (0x2E : Addr).toNat ≤ 0x2E ∧ (0x30 ≤ (0x35 : Addr).toNat ∧ (0x35 : Addr).toNat ≤ 0x3D) :=
  ⟨by decide, served_tx _ _ _, by decide, by decide, by decide, by decide, by decide⟩

/-- A status register read twice with the same value. -/
def agreed (a : Addr) (v : Byte) : List Exchanged := [statRead a (0, v), statRead a (0, v)]

theorem agreed_log (c : Cfg) (a : Addr) (v : Byte) : ArbiterLog c a v (agreed a v) :=
  ⟨[(0, v), (0, v)], rfl, by simp [arbiterStops], rfl, by
    cases h : c.pollLimit <;> simp [withinLimit, passesLimit, h]⟩

/-- H5: (1, 2, 3, 3) with `POLL_LIMIT` = 2: the last disagreement allowed. -/
theorem witness_ArbiterReturnsFirstAgreement :
    (block small [[0, 1], [0, 2], [0, 3], [0, 3]]).accepting ∧ (0x35 : Byte).setWidth 6 ∈ small.syncSet
    ∧ ArbiterLog small ((0x35 : Byte).setWidth 6) 3 ([(0, 1), (0, 2), (0, 3), (0, 3)].map (statRead 0x35))
    ∧ ServedAll small (([(0, 1), (0, 2), (0, 3), (0, 3)].map (statRead 0x35)).map Prod.snd)
        (block small [[0, 1], [0, 2], [0, 3], [0, 3]]).inbox [] :=
  ⟨by decide, by decide, ⟨_, rfl, by decide, by decide, by decide⟩, servedAll_tx _ _⟩

theorem witness_PollLoopsGiveUpAtTheLimit :
    (block small [[0, 1], [0, 2], [0, 3], [0, 4]]).accepting ∧ (0x35 : Byte).setWidth 6 ∈ small.syncSet
    ∧ small.pollLimit = some 2 ∧ ([(0, 1), (0, 2), (0, 3), (0, 4)] : List (Byte × Byte)).length = 2 + 2
    ∧ (([(0, 1), (0, 2), (0, 3), (0, 4)] : List (Byte × Byte)).map Prod.snd).IsChain (· ≠ ·)
    ∧ ServedAll small (([(0, 1), (0, 2), (0, 3), (0, 4)] : List (Byte × Byte)).map fun r => [r.1, r.2])
        (block small [[0, 1], [0, 2], [0, 3], [0, 4]]).inbox [] :=
  ⟨by decide, by decide, rfl, rfl, by decide, servedAll_tx _ _⟩

/-- One byte of a status read of `a` still to come. -/
def halfRead (a : Addr) : Txn := ⟨rdstatBytes a, true, 0, [0]⟩

theorem halfRead_sound (a : Addr) : (halfRead a).sound small := by
  unfold Txn.sound
  exact ⟨by decide +revert, by simp [halfRead], rfl⟩

/-- `POLL_LIMIT` = 2: the third disagreement, the third occupancy above `CHUNK - 2` = 1, the third radio state that has not
drained. -/
theorem witness_PollLoopsGiveUpAtTheLimit_inFlight :
    Coherent (flying (.arbNext .readReg 0x35 4 2) (halfRead 0x35) [⟨false, false, 5⟩]) ∧ (5 : Byte) ≠ 4
    ∧ Coherent (flying (.med2 (.txOcc [1, 2, 3, 4, 5] 3 2) 0x3A 2 2) (halfRead 0x3A) [⟨false, false, 2⟩])
    ∧ small.fifoSize - 3 - 2 < (median3 2 2 2 &&& small.occMask).toNat
    ∧ Coherent (flying (.arbNext (.txDrain 2) 0x35 0x13 0) (halfRead 0x35) [⟨false, false, 0x13⟩]) ∧ ¬ DrainedBy small 0x13
    ∧ (halfRead 0x35).got ++ [5] = [0, 5] ∧ (halfRead 0x35).bytesOut.length = 2 ∧ (halfRead 0x35).ready = true :=
  ⟨flying_coherent (halfRead_sound _), by decide, flying_coherent (halfRead_sound _), by decide,
    flying_coherent (halfRead_sound _), by decide, rfl, rfl, rfl⟩

theorem witness_MedianReadCompletes : (block gk [[0, 61], [0, 60], [0, 61]]).accepting
    ∧ (0x30 ≤ (0x30 : Byte).toNat ∧ (0x3D : Byte).toNat ≤ 0x3D)
    ∧ ServedAll gk [[0, 61], [0, 60], [0, 61]] (block gk [[0, 61], [0, 60], [0, 61]]).inbox [] :=
  ⟨by decide, by decide, servedAll_tx _ _⟩

theorem witness_ReadBurstCompletes : (block gk [[9, 1, 2]]).accepting
    ∧ Served gk (9 :: [1, 2]) (block gk [[9, 1, 2]]).inbox [] ∧ ([1, 2] : List Byte) ≠ [] ∧ [1, 2].length ≤ gk.burstMax
    ∧ BurstAddr gk (0x2D : Byte).toNat [1, 2].length ∧ BurstAddr gk (0x3F : Addr).toNat [1, 2].length :=
  ⟨by decide, served_tx _ _ _, by decide, by decide, by decide, by decide⟩

/-- `RECEIVE_FIFO`, data path: two bytes there, one asked for. -/
theorem witness_ReceiveFifoCompletes_data :
    let log := agreed gk.aRxbytes 2 ++ agreed gk.aMarcstate 1 ++ [([0xFF, 0x00], [7, 0xAB])]
      ++ [strobed gk.sIdle 1, strobed gk.sFlushRx 2, strobed gk.sRx 3]
    (block gk (log.map Prod.snd)).accepting ∧ 1 ≤ gk.burstMax ∧ ArbiterLog gk gk.aRxbytes 2 (agreed gk.aRxbytes 2)
    ∧ ArbiterLog gk gk.aMarcstate 1 (agreed gk.aMarcstate 1)
    ∧ ¬ (1 &&& gk.marcMask = gk.marcRxovf ∨ min (2 &&& gk.occMask).toNat 1 = 0)
    ∧ [(0xAB : Byte)].length = min (2 &&& gk.occMask).toNat 1
    ∧ ServedAll gk (log.map Prod.snd) (block gk (log.map Prod.snd)).inbox [] :=
  ⟨by decide, by decide, agreed_log _ _ _, agreed_log _ _ _, by decide, by decide, servedAll_tx _ _⟩

/-- `RECEIVE_FIFO`, overflow (PR4) and nothing there. -/
theorem witness_ReceiveFifoCompletes_empty :
    let log := agreed gk.aRxbytes 0xC0 ++ agreed gk.aMarcstate 0x11 ++ []
      ++ [strobed gk.sIdle 1, strobed gk.sFlushRx 2, strobed gk.sRx 3]
    (block gk (log.map Prod.snd)).accepting ∧ ArbiterLog gk gk.aRxbytes 0xC0 (agreed gk.aRxbytes 0xC0)
    ∧ ArbiterLog gk gk.aMarcstate 0x11 (agreed gk.aMarcstate 0x11) ∧ 0x11 &&& gk.marcMask = gk.marcRxovf
    ∧ min (0x80 &&& gk.occMask).toNat 63 = 0 ∧ ServedAll gk (log.map Prod.snd) (block gk (log.map Prod.snd)).inbox [] :=
  ⟨by decide, agreed_log _ _ _, agreed_log _ _ _, by decide, by decide, servedAll_tx _ _⟩

/-- The refill of two bytes after an occupancy of 1, `CHUNK` = 3. -/
theorem small_stream : StreamLog small [1, 2, 3, 4, 5] 3 0
    ([statRead small.aTxbytes (0, 1), statRead small.aTxbytes (0, 0), statRead small.aTxbytes (0, 1)]
      ++ refillLog small [4, 5] [(0, 0), (0, 0)] ++ []) :=
  .refill (len := 2) (v := 1) (by decide) ⟨(0, 1), (0, 0), (0, 1), rfl, by decide⟩ (by decide) (by decide) rfl
    (.done (by decide))

theorem small_drain : DrainLog small 0 (agreed small.aMarcstate 1) := .done (agreed_log _ _ _) (by decide)

/-- `TRANSMIT_FIFO` of five bytes with the underflow flag set, one refill pass. -/
theorem witness_TransmitFifoCompletes :
    let log := [strobed small.sIdle 0] ++ agreed small.aTxbytes 0x80 ++ [strobed small.sIdle 0, strobed small.sFlushTx 0]
      ++ [strobed small.sIdle 0] ++ [([0x7F, 1, 2, 3], [0, 0, 0, 0])] ++ [strobed small.sTx 0]
      ++ ([statRead small.aTxbytes (0, 1), statRead small.aTxbytes (0, 0), statRead small.aTxbytes (0, 1)]
        ++ refillLog small [4, 5] [(0, 0), (0, 0)] ++ []) ++ agreed small.aMarcstate 1
    (block small (log.map Prod.snd)).accepting ∧ small.valid = true ∧ 1 ≤ [1, 2, 3, 4, 5].length
    ∧ [1, 2, 3, 4, 5].length ≤ small.wireMax ∧ ArbiterLog small small.aTxbytes 0x80 (agreed small.aTxbytes 0x80)
    ∧ [0, 0, 0, 0].length = min [1, 2, 3, 4, 5].length (small.fifoSize - 3) + 1 ∧ (0x80 : Byte) &&& small.txunfBit ≠ 0
    ∧ ServedAll small (log.map Prod.snd) (block small (log.map Prod.snd)).inbox [] :=
  ⟨by decide, by decide, by decide, by decide, agreed_log _ _ _, by decide, by decide, servedAll_tx _ _⟩

/-- The flag clear, and a frame of exactly `CHUNK` bytes: no streaming pass. -/
theorem witness_TransmitFifoCompletes_short :
    ArbiterLog small small.aTxbytes 0 (agreed small.aTxbytes 0) ∧ ¬ (0 : Byte) &&& small.txunfBit ≠ 0
    ∧ StreamLog small [1, 2, 3] (min [1, 2, 3].length (small.fifoSize - 3)) 0 [] :=
  ⟨agreed_log _ _ _, by decide, .done (by decide)⟩

theorem witness_TransmitWritesEveryByteInOrder :
    let s := block small [[0], [0, 0], [0, 0], [0], [0, 0, 0, 0], [0], [0, 1], [0, 0], [0, 1], [0, 0], [0, 0], [0, 1], [0, 1]]
    s.accepting ∧ s.cfg.valid = true ∧ (nextOf (exec (.transmitFifo [1, 2, 3, 4, 5]) s)).map
      (fun t => (t.busy, t.fault, fifoWritten small t.trace)) = some (false, .none, [1, 2, 3, 4, 5]) := by decide

/-- The last refill write of five bytes, its last answer byte to come. -/
theorem witness_TransmitWritesEveryByteInOrder_inFlight :
    let s := flying (.txByte [1, 2, 3, 4, 5] 3 2 1) ⟨wrsBytes small.aFifo 5, true, 0, [0]⟩ [⟨false, false, 0⟩]
    Coherent s ∧ TxSound s ∧ s.seq = some ⟨.txByte [1, 2, 3, 4, 5] 3 2 1, ⟨wrsBytes small.aFifo 5, true, 0, [0]⟩⟩
    ∧ (Pos.txByte [1, 2, 3, 4, 5] 3 2 1).toWrite = some [5]
    ∧ (nextOf (step s)).map (fun t => (t.fault, fifoWritten small t.trace, t.toWrite)) = some (.none, [5], []) := by
  refine ⟨flying_coherent ?_, ?_, rfl, by decide, by decide⟩
  · unfold Txn.sound
    exact ⟨by decide, by simp, rfl⟩
  · rintro q hq
    cases hq
    exact ⟨rfl, by decide, by decide⟩

theorem witness_TransmitWritesEveryByteInOrder_construct : State.construct small = .ok (State.fresh small) := by
  rw [State.construct, if_pos small_valid]

theorem witness_StatusDecodeReadsTheLatch : ({ State.fresh gk with status := some 0x53 } : State).accepting
    ∧ (block gk []).accepting ∧ (block gk []).status = none ∧ (block gk []).csn = false := by decide

theorem witness_IllegalAccessIsRefused : (block gk []).accepting ∧ (block gk []).csn = false
    ∧ ¬ (0x30 ≤ (0x2F : Byte).toNat) ∧ ¬ (0x3E : Byte).toNat ≤ 0x3D ∧ ¬ WritableAddr gk (0x2F : Byte).toNat
    ∧ ¬ WritableAddr gk (0x35 : Addr).toNat ∧ ¬ BurstAddr gk (0x2D : Byte).toNat [1, 2, 3].length
    ∧ ¬ BurstAddr gk (0x2E : Addr).toNat 2 ∧ ¬ (0x2F : Byte).toNat ≤ 0x2E ∧ 3 ≤ gk.burstMax ∧ gk.valid = true := by decide

/-- R54: 0x2F; a configuration that places the FIFO there is refused. -/
theorem test_write_0x2F : resultOf (exec (.hdrWrs 0x2F 1) (block gk [])) = some (.faulted .illegalAccess)
    ∧ ({ gk with aFifo := 0x2F } : Cfg).valid = false := by decide

/-- R20, U23: data or check bytes above `PAYLOAD_MAX` = 64. -/
theorem test_parse_oversized :
    resultOf (exec (.parse (List.replicate 65 0) (List.replicate 12 0)) (block gk [])) = some (.faulted .illegalOperand)
    ∧ resultOf (exec (.parse (List.replicate 12 0) (List.replicate 65 0)) (block gk [])) = some (.faulted .illegalOperand)
    ∧ resultOf (exec (.parse (List.replicate 64 0) []) (block gk [])) = some (.packet none) := by decide +kernel

theorem witness_IllegalOperandIsRefused : (block small []).accepting ∧ (block small []).csn = false
    ∧ small.burstMax < (List.replicate 65 (0 : Byte)).length ∧ small.wireMax < (List.replicate 256 (0 : Byte)).length
    ∧ (block small []).status = none ∧ small.payloadMax < (List.replicate 65 (0 : Byte)).length
    ∧ 8 ≤ (8 : BitVec 4).toNat ∧ (block small []).ident = none ∧ [(1 : Byte)].length ≠ 6 := by decide +kernel

/-- A frame that fits as a payload and not as a frame. -/
theorem witness_IllegalOperandIsRefused_frame :
    ({ gk with padCount := 250 } : Cfg).valid = true ∧ gk.wireMax < (frame { gk with padCount := 250 } [0xFF]).length := by
  decide +kernel

theorem witness_StoredFaultRefusesEverything : ({ State.fresh gk with fault := .transportFault } : State).busy = false
    ∧ ({ State.fresh gk with fault := .transportFault } : State).fault ≠ .none
    ∧ ({ linedUp (.op 0x0A []) with fault := .transportFault } : State).cfg.valid = true
    ∧ (linedUp (.op 0x0A [])).busy = false ∧ (linedUp (.op 0x0A [])).task = none
    ∧ (linedUp (.op 0x0A [])).pending = .word (.op 0x0A []) :: [.blockReset] := by decide

/-- R274: with a fault stored, a code outside the table is answered with the stored code. -/
theorem test_stored_fault_first : resultOf (step { linedUp (.op 0x0A []) with fault := .transportFault })
    = some (.faulted .transportFault) := by decide

theorem witness_BusyPortTakesNothing :
    (nextOf (exec (.strobe 0x36) (block gk []))).map State.busy = some true := by decide

theorem witness_NotReadyGivesUpAtTheLimit :
    ({ State.fresh small with inbox := [notReady, notReady, notReady] } : State).accepting ∧ small.pollLimit = some 2
    ∧ [notReady, notReady, notReady].length = 2 + 1 ∧ (∀ x ∈ [notReady, notReady, notReady], x.rdy = false) := by decide

/-- A transaction not ready yet, one sample of `RDY` = 0 counted. -/
def waiting : Txn := ⟨strobeBytes 0x36, false, 1, []⟩

theorem waiting_sound : waiting.sound small := by
  unfold Txn.sound
  exact ⟨by decide, fun _ => rfl, rfl⟩

theorem witness_NotReadyGivesUpAtTheLimit_inFlight : Coherent (flying .strobe waiting [notReady, notReady])
    ∧ waiting.ready = false ∧ waiting.attempts + [notReady, notReady].length = 2 + 1
    ∧ ∀ x ∈ [notReady, notReady], x.rdy = false :=
  ⟨flying_coherent waiting_sound, rfl, rfl, by decide⟩

theorem witness_FailedExchangeRaisesTransportFault_inFlight :
    Coherent (flying .readOne ⟨rdstatBytes 0x35, true, 0, []⟩ ([⟨false, false, 1⟩] ++ ⟨false, true, 0⟩ :: []))
    ∧ ([] : List Byte).length + ([⟨false, false, 1⟩] : List BusSample).length < (rdstatBytes 0x35).length
    ∧ ∀ x ∈ ([⟨false, false, 1⟩] : List BusSample), x.fail = false := by
  refine ⟨flying_coherent ?_, by decide, by decide⟩
  unfold Txn.sound
  exact ⟨by decide, fun _ => rfl, rfl⟩

theorem witness_FailedExchangeRaisesTransportFault : (block gk []).accepting ∧ WritableAddr gk (0x2E : Byte).toNat
    ∧ (∀ x ∈ [notReady], x.rdy = false) ∧ withinLimit gk [notReady].length ∧ ([⟨false, false, 1⟩] : List BusSample).length < 2
    ∧ ({ State.fresh gk with inbox := [notReady] ++ ⟨true, false, 0⟩ :: ([⟨false, false, 1⟩] ++ ⟨false, true, 0⟩ :: []) } :
      State).accepting := by decide

theorem witness_OperationWaitsForReady : ({ State.fresh small with inbox := [notReady, notReady] } : State).accepting
    ∧ (∀ x ∈ [notReady, notReady], x.rdy = false) ∧ withinLimit small [notReady, notReady].length := by decide

theorem witness_OperationWaitsForReady_inFlight : Coherent (flying .strobe waiting [notReady]) ∧ [notReady] ≠ []
    ∧ (∀ x ∈ [notReady], x.rdy = false) ∧ withinLimit small (waiting.attempts + [notReady].length) :=
  ⟨flying_coherent waiting_sound, by decide, by decide, by decide⟩

/-- An even, an odd and an empty payload. -/
theorem witness_EncodeCompletes : (block gk []).accepting ∧ lowPayload.length ≤ gk.payloadMax
    ∧ lowPayload.length % 2 = 0 ∧ 5 * lowPayload.length / 2 ≤ gk.wireMax
    ∧ (lowPayload.drop 1).length % 2 = 1 ∧ (5 * (lowPayload.drop 1).length + 1) / 2 ≤ gk.wireMax
    ∧ ([] : List Byte).length = 0 ∧ ([] : List Byte).length ≤ gk.payloadMax := by decide

theorem witness_EncoderMeetsClosedForm : 239 < 8 * encodedLen lowPayload.length := by decide

theorem witness_EveryWireByteIsBalanced : (0x6A : Byte) ∈ encodeWire 0 [0x0F] := by decide +kernel

theorem witness_DecodeCompletes : (block gk []).accepting ∧ (List.replicate 63 (0 : Byte)).length ≤ gk.wireMax
    ∧ declen (List.replicate 63 (0 : Byte)).length ≤ gk.payloadMax := by decide

theorem witness_DeclenCompletes : (block gk []).accepting := by decide

theorem witness_DecoderMeetsClosedForm : 23 < declen (List.replicate 63 (0 : Byte)).length ∧ 7 < 8 := by decide

theorem witness_BuiltFrameDecodes : 2 ≤ gk.preamble.length + gk.syncMarker.length ∧ gk.SyncWordFits
    ∧ ¬ ({ gk with syncWord1 := 0x2A } : Cfg).SyncWordFits ∧ ([] : List Byte).length + 4 = gk.preamble.length + gk.syncMarker.length
    ∧ frame gk [0xFF] ++ [] = [] ++ gk.syncWord0 :: gk.syncWord1 :: (frame gk [0xFF]).drop 2 := by decide +kernel

theorem witness_ChecksumCompletes : (block gk []).accepting ∧ lowPayload.length ≤ gk.payloadMax ∧ lowPayload ≠ []
    ∧ lowPayload.length < gk.payloadMax ∧ (block gk []).csn = false ∧ gk.payloadMax < (List.replicate 65 (0 : Byte)).length := by
  decide

/-- The first byte, and the checksum byte itself. -/
theorem witness_OneChangedByteFailsTheChecksum : 11 < lowPayload.length ∧ (23 : Byte) ≠ lowPayload.getD 0 0
    ∧ (170 : Byte) ≠ lowPayload.getD 11 0 ∧ csumOk lowPayload = true := by decide

theorem witness_CheckBytesCompare : (block gk []).accepting ∧ ([34, 241, 3, 99, 2, 4] : List Byte).length = 6
    ∧ ([34, 241, 3, 99, 2, 5] : List Byte).length = 6 ∧ (block gk []).csn = false
    ∧ ([34, 241, 3, 99, 2] : List Byte).length ≠ 6 := by decide

/-- LOW's ending, behind JOIN and LEAVE, and an ending no signature has. -/
theorem witness_FindCommandFirstMatch : (block gk []).accepting ∧ ([0, 0, 0, 0, 2, 4] : List Byte).length = 6
    ∧ (block gk []).sig.low.b4 = 2 ∧ (block gk []).sig.low.b5 = 4
    ∧ (∀ sig ∈ [(block gk []).sig.join, (block gk []).sig.leave], ¬ (sig.b4 = 2 ∧ sig.b5 = 4))
    ∧ (∀ sig ∈ [gk.sig.join, gk.sig.leave, gk.sig.low, gk.sig.medium, gk.sig.high, gk.sig.timer1, gk.sig.timer2,
      gk.sig.timer3], ¬ (sig.b4 = 9 ∧ sig.b5 = 9)) := by decide

theorem witness_PayloadLayout : ({ State.fresh gk with ident := some owner } : State).accepting
    ∧ ({ State.fresh gk with ident := some owner } : State).ident = some owner
    ∧ ((2 : BitVec 4), sigLow) ∈ [((0 : BitVec 4), gk.sig.join), (1, gk.sig.leave), (2, gk.sig.low), (3, gk.sig.medium),
      (4, gk.sig.high), (5, gk.sig.timer1), (6, gk.sig.timer2), (7, gk.sig.timer3)] := by decide

theorem witness_FrameLayout : (block gk []).accepting ∧ lowPayload.length ≤ gk.payloadMax
    ∧ encodedLen lowPayload.length ≤ gk.wireMax
    ∧ gk.preamble.length + gk.syncMarker.length + encodedLen lowPayload.length + 1 + gk.padCount ≤ gk.wireMax
    ∧ (block gk []).csn = false ∧ gk.payloadMax < (List.replicate 65 (0 : Byte)).length
    ∧ gk.wireMax < gk.preamble.length + gk.syncMarker.length + encodedLen lowPayload.length + 1 + 221 := by decide

theorem witness_ParseReadsTheLayout : (block gk []).accepting ∧ lowPayload.length = lowPayload.length
    ∧ 12 ≤ lowPayload.length ∧ (lowPayload.drop 1).length < 12 ∧ 12 ≤ (lowPayload ++ [0]).length
    ∧ (lowPayload ++ [0]).length ≤ (block gk []).cfg.payloadMax ∧ (block gk []).csn = false
    ∧ (block gk []).cfg.payloadMax < (List.replicate 65 (0 : Byte)).length := by decide

theorem witness_CfgIdSetsTheIdentity : ({ State.fresh gk with ident := some owner } : State).accepting := by decide

theorem witness_OverheardPayloadIsRecognised :
    let rows : List (Command × Sig6) := [(.join, gk.sig.join), (.leave, gk.sig.leave), (.low, gk.sig.low),
      (.medium, gk.sig.medium), (.high, gk.sig.high), (.timer1, gk.sig.timer1), (.timer2, gk.sig.timer2),
      (.timer3, gk.sig.timer3)]
    (.low, sigLow) ∈ rows ∧ ∀ r ∈ rows, r.2.b4 = sigLow.b4 → r.2.b5 = sigLow.b5 → r.1 = .low := by decide

theorem witness_ConstructionChecksAndResets : ¬ MeetsConstraints { gk with fifoSize := 5 }
    ∧ ¬ MeetsConstraints { gk with rxRearm := [.packetLength, .sync0] } ∧ MeetsConstraints gk
    ∧ MeetsConstraints { gk with fifoSize := 6 } :=
  ⟨fun h => absurd h.fifoSize (by decide), fun h => absurd h.rearmWrites.2.2 (by decide), (Cfg.valid_iff _).mp gk_valid,
    (Cfg.valid_iff _).mp (by decide)⟩

/-- With no sequence of the host running, and with one. -/
theorem witness_BlockResetClearsFault :
    let s : State := { State.fresh gk with fault := .illegalAccess, ident := some owner, pending := [.blockReset] }
    s.cfg.valid = true ∧ s.busy = false ∧ s.task = none ∧ s.pending = .blockReset :: []
    ∧ (nextOf (step { s with task := some .rxCalibrate, result := some (.byte 0) })).map State.task = some none := by decide

theorem witness_OnlyBlockResetClearsFault :
    let s : State := { linedUp (.op 0b00000 []) with fault := .illegalAccess }
    s.fault ≠ .none ∧ ¬ (s.busy = false ∧ ∃ rest, s.pending = .blockReset :: rest)
    ∧ step s = .next { s with pending := [.blockReset], result := some (.faulted .illegalAccess) } :=
  ⟨by decide, by simp [linedUp], rfl⟩

theorem witness_OperationsLeaveTheRestAlone : (∃ t, exec .reset (block gk [[0x0F]]) = .next t)
    ∧ (∀ a b c d, Instr.reset ≠ .cfgId a b c d) ∧ (flying .strobe waiting [notReady]).busy = true
    ∧ ∃ t, step (flying .strobe waiting [notReady]) = .next t := ⟨⟨_, rfl⟩, by simp, rfl, _, rfl⟩

theorem witness_CodecTouchesNoBus : (block gk []).csn = false ∧ (block gk []).seq = none
    ∧ ∃ t, exec (.declen 63) (block gk []) = .next t := ⟨rfl, rfl, _, rfl⟩

/-- A coherent block whose step goes on: it begins an operation. -/
theorem witness_CoherenceIsKept : Coherent (linedUp (encode (.strobe 0x36)))
    ∧ ∃ t, step (linedUp (encode (.strobe 0x36))) = .next t := ⟨coherent_fresh gk gk_valid _ _, _, rfl⟩

/-- A block with a transaction in flight. -/
def inFlight : State := { State.fresh gk with
  csn := true, busy := true, seq := some ⟨.strobe, ⟨[0x36], true, 0, []⟩⟩, trace := [.ready, .select] }

theorem inFlight_coherent : Coherent inFlight :=
  ⟨gk_valid, rfl, rfl, rfl, fun hf => absurd rfl hf, by simp [inFlight, State.fresh], by
    rintro q hq
    cases hq
    unfold Txn.sound
    exact ⟨by decide, by decide, by decide⟩⟩

theorem witness_BracketOrderIsKept : Coherent inFlight ∧ Bracketed inFlight ∧ ∃ t, step inFlight = .next t :=
  ⟨inFlight_coherent, by unfold Bracketed; decide, _, rfl⟩

theorem witness_OnlyLegalHeadersAreSent : Coherent inFlight ∧ OnlyLegalSent inFlight ∧ ∃ t, step inFlight = .next t := by
  refine ⟨inFlight_coherent, ⟨?_, ?_⟩, _, rfl⟩
  · intro e he o ho
    simp only [inFlight, List.mem_cons, List.not_mem_nil, or_false] at he
    rcases he with rfl | rfl <;> cases ho
  · rintro q hq
    cases hq
    decide

theorem witness_ResetMeetsTheInvariants : State.construct gk = .ok (State.fresh gk) := by
  rw [State.construct, if_pos gk_valid]

/-- No answer given; two given while an operation waits; none given and nothing in flight. -/
theorem witness_OperationsTakeAnswersInOrder : (Coherent inFlight ∧ inFlight.busy = true ∧ inFlight.inbox = [])
    ∧ (Coherent (flying .strobe waiting [notReady, notReady]) ∧ (flying .strobe waiting [notReady, notReady]).busy = true
      ∧ (flying .strobe waiting [notReady, notReady]).inbox ≠ [])
    ∧ Coherent (block gk []) ∧ (block gk []).busy = false ∧ (block gk []).inbox = [] :=
  ⟨⟨inFlight_coherent, rfl, rfl⟩, ⟨flying_coherent waiting_sound, rfl, by decide⟩, coherent_fresh gk gk_valid _ _, rfl, rfl⟩

/-- A strobe issued without answers and served by two later ones: what 41_driver R132 gives when they are there at once. -/
theorem test_strobe_in_two_steps :
    (nextOf (exec (.strobe 0x36) (block gk []))).bind (fun t => resultOf (step { t with inbox := tx [0x1F] }))
      = some (.byte 0x1F) := by decide

/-- Each of the three cases: `BUILD_PAYLOAD` has returned, with a payload or a fault; block reset; neither. -/
theorem witness_CounterRisesOncePerSend :
    (∃ t, step { State.fresh gk with ctr := 255, task := some (.sendPayload 2), result := some (.bytes lowPayload) } = .next t)
    ∧ (∃ t, step { State.fresh gk with
        fault := .illegalOperand, task := some (.sendPayload 2), result := some (.faulted .illegalOperand) } = .next t)
    ∧ (∃ t, step { State.fresh gk with ctr := 7, pending := [.blockReset] } = .next t)
    ∧ ∃ t, step (linedUp (.op 0b01001 [])) = .next t := ⟨⟨_, rfl⟩, ⟨_, rfl⟩, ⟨_, rfl⟩, _, rfl⟩

/-- The host at a point of a sequence, an operation just returned. -/
def hosting (t : SessionTask) (r : OpResult) : State := { State.fresh gk with task := some t, result := some r }

theorem witness_SendFollowsTheProcedure : (hosting .sendExit (.byte 0)).cfg.valid = true
    ∧ (hosting .sendExit (.byte 0)).busy = false
    ∧ ({ State.fresh gk with pending := [.session (.send 2)] } : State).pending = .session (.send 2) :: []
    ∧ ({ State.fresh gk with pending := [.session (.send 2)] } : State).task = none
    ∧ ({ hosting .sendExit (.byte 0) with pending := [.goOn, .blockReset] } : State).pending = .goOn :: [.blockReset]
    ∧ (hosting .sendExit (.byte 0)).task ≠ none
    ∧ (nextOf (step { hosting .sendExit (.byte 0) with pending := [] })).isSome = true
    ∧ (hosting (.sendPayload 2) (.faulted .illegalOperand)).result = some (.faulted .illegalOperand)
    ∧ (hosting (.sendFrame 2) (.faulted .illegalOperand)).task = some (.sendFrame 2)
    ∧ (hosting .sendExit (.faulted .illegalOperand)).task = some .sendExit
    ∧ (hosting (.sendPayload 2) (.bytes lowPayload)).task = some (.sendPayload 2)
    ∧ (hosting (.sendFrame 2) (.bytes lowPayload)).result = some (.bytes lowPayload)
    ∧ profileWrites gk 1 gk.txProfile1 ++ [.writeBurst (gk.aPatable.setWidth 8) gk.txPatable, .strobe (gk.sTx.setWidth 8)]
        ++ profileWrites gk 1 gk.txProfile2
      = .writeReg 0x10 1 :: [.writeBurst 0x3E [0x6F], .strobe 0x35, .writeReg 0x06 1]
    ∧ (hosting (.sendEnter 2 [1] [.strobe 0x35]) .done).task = some (.sendEnter 2 [1] (.strobe 0x35 :: []))
    ∧ (hosting (.sendEnter 2 [1] []) .done).task = some (.sendEnter 2 [1] [])
    ∧ (hosting .sendExit (.byte 0)).task = some .sendExit := by decide

/-- A result no operation of the sequence returns, which no run reaches. -/
theorem witness_SendFollowsTheProcedure_refused :
    step { hosting .rxCalibrate .done with pending := [] } = .refused .sessionOutOfStep := rfl

/-- The single move is made with a block reset behind it. -/
theorem test_go_on_before_reset : ((nextOf (step { hosting .sendExit (.byte 0) with pending := [.goOn, .blockReset] })).map
    fun t => (t.sessionResult, t.pending)) = some (some .sent, [.blockReset]) := by decide

/-- Nothing waits for a block reset or a single move. -/
theorem hosting_undisturbed (t : SessionTask) (r : OpResult) : (hosting t r).undisturbed := by
  simp [State.undisturbed, hosting, State.fresh]

theorem witness_undisturbed_pending : ({ State.fresh gk with pending := [.session (.send 2)] } : State).undisturbed
    ∧ ({ State.fresh gk with mode := .receiving, pending := [.session .poll] } : State).undisturbed
    ∧ ({ State.fresh gk with pending := [.session .enterReceive] } : State).undisturbed := by
  simp [State.undisturbed]

/-- LEAVE before and at its last transmission. -/
theorem witness_RetransmissionsFollowThePolicy : (hosting (.sendTransmit 1 [1] 29) .done).cfg.valid = true
    ∧ (hosting (.sendTransmit 1 [1] 29) .done).busy = false
    ∧ (hosting (.sendTransmit 1 [1] 29) .done).task = some (.sendTransmit 1 [1] 29)
    ∧ (hosting (.sendTransmit 1 [1] 30) .done).result = some .done ∧ 29 < (if (1 : BitVec 4) = 1 then 30 else 3)
    ∧ ¬ 3 < (if (2 : BitVec 4) = 1 then 30 else 3) := by decide

theorem witness_PollFollowsTheProcedure : (hosting .pollReceive (.bytes [])).cfg.valid = true
    ∧ (hosting .pollReceive (.bytes [])).busy = false
    ∧ ({ State.fresh gk with mode := .receiving, pending := [.session .poll] } : State).pending = .session .poll :: []
    ∧ (hosting .pollReceive (.bytes [])).result = some (.bytes [])
    ∧ (hosting .pollDecode (.faulted .illegalOperand)).result = some (.faulted .illegalOperand)
    ∧ (hosting .pollDecode (.decoded [] [])).result = some (.decoded [] [])
    ∧ (hosting .pollParse (.packet none)).result = some (.packet none) ∧ profileWrites gk 63 gk.rxRearm = .writeReg 0x06 63 :: [.writeReg 0x05 0xAA, .writeReg 0x04 0xAA]
    ∧ (hosting (.pollRearm none [.strobe 0x34]) .done).task = some (.pollRearm none (.strobe 0x34 :: []))
    ∧ (hosting (.pollRearm none []) .done).task = some (.pollRearm none []) := by decide

theorem witness_EnterReceiveFollowsTheProcedure : (hosting .rxCalibrate (.byte 1)).cfg.valid = true
    ∧ (hosting .rxCalibrate (.byte 1)).busy = false
    ∧ ({ State.fresh gk with pending := [.session .enterReceive] } : State).pending = .session .enterReceive :: []
    ∧ (hosting (.rxSetup [.strobe 0x33]) .done).task = some (.rxSetup (.strobe 0x33 :: []))
    ∧ (hosting (.rxSetup []) (.byte 0)).task = some (.rxSetup []) ∧ (1 : Byte) &&& gk.marcMask = gk.marcIdle
    ∧ (0x11 : Byte) &&& gk.marcMask = gk.marcRxovf ∧ (0x0D : Byte) &&& gk.marcMask = gk.marcRx
    ∧ (hosting (.rxWait false) (.byte 0x11)).task = some (.rxWait false)
    ∧ (hosting .rxCalibrate (.faulted .transportFault)).result = some (.faulted .transportFault)
    ∧ (hosting .rxStart (.byte 0)).task = some .rxStart ∧ (hosting .rxRetryFlush (.byte 0)).task = some .rxRetryFlush
    ∧ (hosting .rxRetryStart (.byte 0)).task = some .rxRetryStart ∧ gk.marcRxovf ≠ gk.marcRx := by decide

end Sys2Proof.Machine.Tests
end

section
/-! PROOFS of the statements about the state (10_state): what every step keeps, what operations leave alone, and the
order of answers. -/

namespace Sys2Proof.Machine

/-! ### What an instruction begins -/

/-- Everything the body of an accepted instruction can do before the chip answers. -/
inductive Instr.Begins (i : Instr) (s : State) : State → Prop where
  /-- It completes at once. -/
  | finish (r : OpResult) : Instr.Begins i s (s.finish r)
  /-- `CFG_ID` sets the identity. -/
  | identify (devType id0 id1 id2 : Byte) : i = .cfgId devType id0 id1 id2 →
      Instr.Begins i s (({ s with ident := some ⟨devType, id0, id1, id2⟩ } : State).finish .done)
  /-- An operand is refused. -/
  | raise (code : FaultCode) : code ≠ .configMismatch → Instr.Begins i s (s.raise code)
  /-- The first transaction begins. -/
  | begin (pos : Pos) (out : List Byte) : out ≠ [] → Instr.Begins i s (s.beginTxn pos out)
  /-- `RESET`: the pulse list, then the reset strobe. -/
  | pulse : Instr.Begins i s ((s.pulses s.cfg.rstSeq).beginStrobe .chipReset s.cfg.sReset)

theorem Instr.begins_ensure {i : Instr} {s : State} {c : Bool} {code : FaultCode} {go : State → State}
    (hcode : code ≠ .configMismatch) (h : Instr.Begins i s (go s)) : Instr.Begins i s (s.ensure c code go) := by
  cases c
  · exact .raise code hcode
  · exact h

theorem Instr.begins_ite {i : Instr} {s t u : State} {p : Prop} [Decidable p] (ht : Instr.Begins i s t)
    (hu : Instr.Begins i s u) : Instr.Begins i s (if p then t else u) := by
  split
  · exact ht
  · exact hu

/-- Every instruction is issued with a body that begins it in one of these ways. -/
theorem exec_begins (i : Instr) :
    ∃ body : State → State, (∀ s, exec i s = issue s body) ∧ ∀ s, Instr.Begins i s (body s) := by
  cases i <;> refine ⟨_, fun s => by unfold exec; rfl, fun s => ?_⟩
  case reset => exact .pulse
  case cfgId => exact .identify _ _ _ _ rfl
  case declen => exact .finish _
  case statusDecode =>
    split
    · exact .finish _
    · exact .raise _ (by decide)
  case buildPayload =>
    split
    · exact .finish _
    · exact .raise _ (by decide)
  case encode | decode | csumGen | csumChk | chkCmp | findCmd | parse =>
    exact Instr.begins_ensure (by decide) (.finish _)
  case buildFrame => exact Instr.begins_ensure (by decide) (Instr.begins_ensure (by decide) (.finish _))
  case strobe | writeReg | readMed3 | receiveFifo | transmitFifo | hdrStrobe | hdrWrs | hdrRds | hdrRdstat =>
    exact Instr.begins_ensure (by decide) (.begin _ _ (List.cons_ne_nil _ _))
  case readReg addr kind =>
    cases kind
    · exact Instr.begins_ensure (by decide) (.begin _ _ (List.cons_ne_nil _ _))
    · refine Instr.begins_ensure (go := fun s => if inSyncSet s.cfg (field6 addr) then _ else _) (by decide) ?_
      exact Instr.begins_ite (.begin _ _ (List.cons_ne_nil _ _)) (.begin _ _ (List.cons_ne_nil _ _))
  case writeBurst | readBurst | hdrWrb | hdrRdb =>
    exact Instr.begins_ensure (by decide) (Instr.begins_ensure (by decide)
      (Instr.begins_ite (.finish _) (.begin _ _ (List.cons_ne_nil _ _))))

/-- Every instruction, issued with `BUSY` = 0, answers a next state. -/
theorem exec_of_idle {s : State} (i : Instr) (hb : s.busy = false) : ∃ t, exec i s = .next t := by
  obtain ⟨body, hx, -⟩ := exec_begins i
  exact ⟨_, by rw [hx, issue, hb]; rfl⟩

/-! ### What an operation leaves alone -/

/-- `RESET`'s pulse list moves the chip select and is recorded; nothing else changes (41_driver R130). -/
theorem State.pulses_eq (l : List (Bool × Nat)) : ∀ s : State,
    ∃ level : Bool, State.pulses l s = { s with csn := level, trace := pulseTrace l ++ s.trace } := by
  induction l with
  | nil => intro s; exact ⟨s.csn, rfl⟩
  | cons p l ih =>
    intro s
    obtain ⟨level, delay⟩ := p
    obtain ⟨last, h⟩ := ih ((if level then s.select else s.deselect).pause delay)
    refine ⟨last, ?_⟩
    rw [State.pulses, h]
    cases level <;> simp [State.pause, State.emit, State.select, State.deselect, pulseTrace]

theorem State.pulses_keeps (l : List (Bool × Nat)) (s : State) : s.KeepsRest (State.pulses l s) := by
  obtain ⟨level, h⟩ := s.pulses_eq l
  rw [h]
  exact ⟨rfl, rfl, rfl, rfl, rfl, rfl, rfl, rfl, rfl, fun _ => rfl⟩

/-- What an instruction keeps: the rest, and unless it is `CFG_ID` the identity. -/
structure Instr.KeepsRest (i : Instr) (s t : State) : Prop where
  rest : State.KeepsRest { s with ident := t.ident } t
  ident : (∀ a b c d, i ≠ .cfgId a b c d) → t.ident = s.ident

theorem Instr.KeepsRest.of_state {i : Instr} {s t : State} (k : s.KeepsRest t) : Instr.KeepsRest i s t :=
  ⟨⟨k.cfg, rfl, k.sig, k.ctr, k.mode, k.task, k.pending, k.sessionResult, k.drawn, k.fault⟩, fun _ => k.ident⟩

theorem Instr.Begins.keeps {i : Instr} {s t : State} (h : Instr.Begins i s t) : Instr.KeepsRest i s t := by
  cases h with
  | finish r => exact .of_state (s.finish_keeps r)
  | identify a b c d hi => exact ⟨State.finish_keeps _ _, fun hne => absurd hi (hne a b c d)⟩
  | raise code => exact .of_state (s.raise_keeps code)
  | begin pos out => exact .of_state (s.beginTxn_keeps pos out)
  | pulse => exact .of_state ((s.pulses_keeps _).trans (State.beginTxn_keeps _ _ _))

theorem exec_keeps {i : Instr} {s t : State} (h : exec i s = .next t) : Instr.KeepsRest i s t := by
  obtain ⟨body, hx, hbegin⟩ := exec_begins i
  rw [hx] at h
  obtain ⟨-, ⟨-, rfl⟩ | ⟨-, rfl⟩⟩ := issue_next_cases h
  · have hbody := (hbegin s.accept).keeps
    have hset := (body s.accept).settle_keeps
    have hrest : State.KeepsRest { s with ident := (body s.accept).ident } (body s.accept).settle :=
      (State.accept_keeps { s with ident := (body s.accept).ident }).trans (hbody.rest.trans hset)
    exact ⟨hset.ident ▸ hrest, fun hne => hset.ident.trans (hbody.ident hne)⟩
  · exact .of_state s.reportStored_keeps

/-- The chip's move keeps the rest, but for the count of free answers. -/
theorem State.chipMove_keeps (s : State) : State.KeepsRest { s with drawn := s.chipMove.drawn } s.chipMove := by
  unfold State.chipMove
  split
  · have k := State.takeAll_keeps [Config.freeSample s.drawn] { s with drawn := s.drawn + 1 }
    rw [k.drawn]
    exact k
  · have k := s.settle_keeps
    rw [k.drawn]
    exact k

/-- A step while an operation is in flight is the chip's move. -/
theorem step_of_busy {s t : State} (hb : s.busy = true) (h : step s = .next t) : t = s.chipMove := by
  unfold step at h
  split at h
  · simpa [hb, eq_comm] using h
  · cases h

/-- A step while no operation is in flight is a move between operations. -/
theorem step_of_idle {s t : State} (hb : s.busy = false) (h : step s = .next t) : s.portMove = .next t := by
  unfold step at h
  split at h
  · simpa [hb] using h
  · cases h

/-! ### Coherence -/

/-- A coherent block but for the sequencer: an operation is accepted or a transaction of it has ended, and the procedure
has not gone on. -/
structure State.Poised (s : State) : Prop where
  valid : s.cfg.valid = true
  sig : s.sig = s.cfg.sig
  busy : s.busy = true
  csn : s.csn = false
  fault : s.fault = .none

/-- A transaction that has begun lacks its bytes (40_bus R114). -/
theorem Txn.start_sound (c : Cfg) {out : List Byte} (h : out ≠ []) : (Txn.start out).sound c :=
  ⟨List.length_pos_of_ne_nil h, fun _ => rfl, by
    show passesLimit c.pollLimit 0 = false
    cases c.pollLimit <;> simp [passesLimit]⟩

theorem Coherent.valid {s : State} (h : Coherent s) : s.cfg.valid = true := by
  obtain ⟨hv, -⟩ := h
  exact hv

theorem Coherent.busy {s : State} (h : Coherent s) : s.busy = s.seq.isSome := by
  obtain ⟨-, -, hb, -⟩ := h
  exact hb

/-- A block with nothing in flight is coherent. -/
theorem Coherent.of_idle {s : State} (hv : s.cfg.valid = true) (hs : s.sig = s.cfg.sig) (hb : s.busy = false)
    (hc : s.csn = false) (hq : s.seq = none) (hf : s.fault ≠ .configMismatch) : Coherent s :=
  ⟨hv, hs, by simp [hb, hq], by simp [hc, hq], fun _ => hb, hf, by simp [hq]⟩

/-- A block with a transaction in flight is coherent. -/
theorem Coherent.of_inFlight {s : State} {q : Seq} (hv : s.cfg.valid = true) (hs : s.sig = s.cfg.sig)
    (hb : s.busy = true) (hc : s.csn = true) (hq : s.seq = some q) (hf : s.fault = .none) (ht : q.txn.sound s.cfg) :
    Coherent s :=
  ⟨hv, hs, by simp [hb, hq], by simp [hc, hq], fun h => absurd hf h, by simp [hf], by
    rintro _ h
    cases hq.symm.trans h
    exact ht⟩

/-- With an operation in flight a coherent block is selected, and no fault is stored. -/
theorem Coherent.inFlight {s : State} {q : Seq} (h : Coherent s) (hq : s.seq = some q) :
    s.busy = true ∧ s.csn = true ∧ s.fault = .none ∧ q.txn.sound s.cfg := by
  obtain ⟨-, -, hb, hc, hf, -, ht⟩ := h
  rw [hq] at hb hc
  refine ⟨hb, hc, ?_, ht q hq⟩
  by_contra hne
  simp [hf hne] at hb

/-- Taking a fault leaves a coherent block (60_exceptions R268). -/
theorem Coherent.raise {s : State} {code : FaultCode} (hv : s.cfg.valid = true) (hs : s.sig = s.cfg.sig)
    (hf : s.fault = .none) (hcode : code ≠ .configMismatch) : Coherent (s.raise code) :=
  .of_idle (by simpa) (by simpa) rfl (by simp) rfl (by simpa [hf])

theorem State.Poised.finish {s : State} (h : s.Poised) (r : OpResult) : Coherent (s.finish r) :=
  .of_idle h.valid h.sig rfl h.csn rfl (by simp [h.fault])

theorem State.Poised.raise {s : State} (h : s.Poised) {code : FaultCode} (hcode : code ≠ .configMismatch) :
    Coherent (s.raise code) := .raise h.valid h.sig h.fault hcode

/-- Beginning a transaction sets the chip select, so what it was does not matter. -/
theorem Coherent.beginTxn {s : State} {pos : Pos} {out : List Byte} (hv : s.cfg.valid = true) (hs : s.sig = s.cfg.sig)
    (hb : s.busy = true) (hf : s.fault = .none) (hne : out ≠ []) : Coherent (s.beginTxn pos out) :=
  .of_inFlight hv hs hb rfl rfl hf (Txn.start_sound _ hne)

/-- A procedure that goes on leaves a coherent block. -/
theorem State.Goes.coherent {s t : State} {ok : Prop} (h : s.Goes ok t) (hs : s.Poised) : Coherent t := by
  cases h with
  | finish r => exact hs.finish r
  | settled n => exact State.Poised.finish (s := s.pause n) ⟨hs.valid, hs.sig, hs.busy, hs.csn, hs.fault⟩ _
  | raise => exact hs.raise (by decide)
  | begin pos out hne => exact .beginTxn hs.valid hs.sig hs.busy hs.fault hne

/-- One answer taken leaves a coherent block. -/
theorem State.Takes.coherent {s t : State} {q : Seq} {a : BusSample} (h : s.Takes q a t) (hs : Coherent s)
    (hq : s.seq = some q) : Coherent t := by
  obtain ⟨hb, hc, hf, hlack, hready, hlim⟩ := hs.inFlight hq
  obtain ⟨hv, hsig, -⟩ := hs
  cases h with
  | notReady _ _ hl => exact .of_inFlight hv hsig hb hc rfl hf ⟨hlack, hready, hl⟩
  | gaveUp => exact .raise hv hsig hf (by decide)
  | ready _ _ => exact .of_inFlight hv hsig hb hc rfl hf ⟨hlack, fun h => absurd h (by simp), hlim⟩
  | failed => exact .raise (s := s.emit _) hv hsig hf (by decide)
  | byte hr _ hl =>
    exact .of_inFlight hv hsig hb hc rfl hf ⟨by simpa using hl, fun h => absurd (hr.symm.trans h) (by decide), hlim⟩
  | last => exact (State.goes_resume _ _ _).coherent ⟨hv, hsig, hb, rfl, hf⟩

theorem Coherent.takeSample {s : State} (h : Coherent s) (a : BusSample) : Coherent (s.takeSample a) := by
  cases hq : s.seq with
  | none => simpa [State.takeSample, hq] using h
  | some q => exact (State.takeSample_takes hq a).coherent h hq

theorem Coherent.takeAll {s : State} (h : Coherent s) (l : List BusSample) : Coherent (State.takeAll l s) :=
  State.takeAll_induct (P := Coherent) (fun _ _ h => h) (fun _ a h => h.takeSample a) l s h

theorem Coherent.chipMove {s : State} (h : Coherent s) : Coherent s.chipMove := by
  unfold State.chipMove
  split
  · exact Coherent.takeAll (s := { s with drawn := s.drawn + 1 }) h _
  · exact h.takeAll _

/-- An accepted operation is poised. -/
theorem Coherent.accept_poised {s : State} (h : Coherent s) (ha : s.accepting) : s.accept.Poised := by
  obtain ⟨hb, hf⟩ := ha
  obtain ⟨-, hc⟩ := h.idle hb
  obtain ⟨hv, hs, -⟩ := h
  exact ⟨hv, hs, rfl, hc, hf⟩

/-- Beginning an instruction leaves a coherent block. -/
theorem Instr.Begins.coherent {i : Instr} {s t : State} (h : Instr.Begins i s t) (hs : s.Poised) : Coherent t := by
  cases h with
  | finish r => exact hs.finish r
  | identify a b c d =>
    exact State.Poised.finish (s := { s with ident := some ⟨a, b, c, d⟩ })
      ⟨hs.valid, hs.sig, hs.busy, hs.csn, hs.fault⟩ .done
  | raise code hcode => exact hs.raise hcode
  | begin pos out hne => exact .beginTxn hs.valid hs.sig hs.busy hs.fault hne
  | pulse =>
    obtain ⟨level, h⟩ := s.pulses_eq s.cfg.rstSeq
    rw [h]
    exact .beginTxn (s := { s with csn := level, trace := _ }) hs.valid hs.sig hs.busy hs.fault (List.cons_ne_nil _ _)

/-- Issuing leaves a coherent block, if the body does from an accepted operation. -/
theorem Coherent.issue {s t : State} {body : State → State} (hs : Coherent s)
    (hbody : s.accept.Poised → Coherent (body s.accept)) (h : issue s body = .next t) : Coherent t := by
  obtain ⟨hb, ⟨hf, rfl⟩ | ⟨hf, rfl⟩⟩ := issue_next_cases h
  · exact (hbody (hs.accept_poised ⟨hb, hf⟩)).takeAll _
  · exact hs

theorem Coherent.exec {s t : State} {i : Instr} (hs : Coherent s) (h : exec i s = .next t) : Coherent t := by
  obtain ⟨body, hx, hbegin⟩ := exec_begins i
  exact hs.issue (hbegin s.accept).coherent ((hx s).symm.trans h)

/-- What the host changes is no part of the block. -/
theorem State.HostSide.coherent {s t : State} (h : s.HostSide t) (hs : Coherent s) : Coherent t := by
  obtain ⟨ctr, mode, task, pending, sessionResult, gap, -, rfl⟩ := h
  exact hs

/-- A block reset leaves a coherent block (70_reset R292). -/
theorem Coherent.blockReset {s : State} (h : Coherent s) : Coherent s.blockReset := by
  obtain ⟨hv, -⟩ := h
  exact .of_idle hv rfl rfl rfl rfl FaultCode.noConfusion

/-- A move between operations that goes on leaves a coherent block. -/
theorem State.PortMove.coherent {s t : State} {o : Host.Outcome State Fault Refusal} (h : s.PortMove o)
    (hs : Coherent s) (ho : o = .next t) : Coherent t := by
  cases h with
  | run i hside => exact (hside.coherent hs).exec ho
  | illegal code hcode hside => exact (hside.coherent hs).issue (fun hp => hp.raise hcode) ho
  | host hside =>
    cases ho
    exact hside.coherent hs
  | blockReset hside =>
    cases ho
    exact (hside.coherent hs).blockReset
  | refused r => cases ho

/-- Settles O51: a step is the chip's move or a move between operations, and each keeps coherence. -/
theorem coherenceIsKept : Obligations.CoherenceIsKept := by
  unfold Obligations.CoherenceIsKept
  intro s t hs h
  cases hb : s.busy with
  | true =>
    rw [step_of_busy hb h]
    exact hs.chipMove
  | false => exact s.portMove_cases.coherent hs (step_of_idle hb h)

/-! ### A stored fault -/

/-- If the outcome goes on, it does so with this fault stored. -/
def FaultStays (f : FaultCode) (o : Host.Outcome State Fault Refusal) : Prop := ∀ t, o = .next t → t.fault = f

theorem FaultStays.refused (f : FaultCode) (r : Refusal) : FaultStays f (.refused r) := fun _ h => nomatch h

theorem FaultStays.next {f : FaultCode} {s : State} (hs : s.fault = f) : FaultStays f (.next s) := by
  rintro _ ⟨⟩
  exact hs

section

variable {f : FaultCode} {s : State} (hf : f ≠ .none) (hs : s.fault = f)

include hf hs

theorem FaultStays.issue (body : State → State) : FaultStays f (issue s body) := by
  subst hs
  unfold Machine.issue
  split
  · exact .refused _ _
  · simpa [hf] using FaultStays.next (s := s.reportStored) rfl

theorem FaultStays.exec (i : Instr) : FaultStays f (exec i s) := by
  obtain ⟨body, hx, -⟩ := exec_begins i
  rw [hx]
  exact .issue hf hs body

/-- A move of the host's running sequence issues an operation, ends the sequence or is refused. -/
theorem FaultStays.sessionStep (t : SessionTask) (r : OpResult) : FaultStays f (s.sessionStep t r) := by
  unfold State.sessionStep
  split <;> try simp only [State.exitTransmit, State.sendEntering, State.receiveEntering, State.rxUntil,
    State.pollRearming, State.issueFor, State.endSession]
  all_goals (repeat' split)
  all_goals first
    | exact .exec hf (by exact hs) _
    | exact .next (by exact hs)
    | exact .refused _ _

theorem FaultStays.goOn : FaultStays f s.goOn := by
  unfold State.goOn State.sessionMove
  split
  · split
    · exact .sessionStep hf (by exact hs) _ _
    · exact .refused _ _
  · exact .next hs

theorem FaultStays.runWord (w : PortWord) : FaultStays f (s.runWord w) := by
  unfold State.runWord State.rejectWord
  split
  · exact .exec hf (by exact hs) _
  · split <;> exact .issue hf (by exact hs) _

theorem FaultStays.beginSession (c : SessionCall) : FaultStays f (s.beginSession c) := by
  cases c with
  | send cmd =>
    unfold State.beginSession State.issueFor
    exact .exec hf (by exact hs) _
  | enterReceive =>
    unfold State.beginSession State.receiveEntering State.issueFor
    exact .exec hf (by exact hs) _
  | poll =>
    unfold State.beginSession State.issueFor
    dsimp only
    split
    · exact .exec hf (by exact hs) _
    · exact .refused _ _

/-- Between operations only a block reset first in line clears a fault. -/
theorem FaultStays.portMove (hp : ∀ rest, s.pending ≠ .blockReset :: rest) : FaultStays f s.portMove := by
  unfold State.portMove
  split
  case h_1 rest h => exact absurd h (hp rest)
  case h_2 => exact .goOn hf (by exact hs)
  case h_3 =>
    split
    · exact .goOn hf (by exact hs)
    · exact .runWord hf (by exact hs) _
  case h_4 =>
    split
    · exact .goOn hf (by exact hs)
    · exact .beginSession hf (by exact hs) _
  case h_5 => exact .goOn hf (by exact hs)

end

/-- Settles O48: the chip's move keeps a stored fault, and so does every move between operations but a block reset. -/
theorem onlyBlockResetClearsFault : Obligations.OnlyBlockResetClearsFault := by
  unfold Obligations.OnlyBlockResetClearsFault
  intro s t h hf hreset
  cases hb : s.busy with
  | true =>
    rw [step_of_busy hb h]
    exact s.chipMove_keeps.fault hf
  | false =>
    exact FaultStays.portMove hf rfl (fun rest hp => hreset ⟨hb, rest, hp⟩) t (step_of_idle hb h)

/-- Settles O49: issuing an instruction and the chip's move keep the rest. -/
theorem operationsLeaveTheRestAlone : Obligations.OperationsLeaveTheRestAlone := by
  unfold Obligations.OperationsLeaveTheRestAlone
  constructor
  · intro s t i h
    obtain ⟨k, hident⟩ := exec_keeps h
    exact ⟨k.cfg, k.sig, k.ctr, k.mode, k.task, k.pending, k.sessionResult, k.drawn, hident⟩
  · intro s t hb h
    rw [step_of_busy hb h]
    have k := s.chipMove_keeps
    exact ⟨k.cfg, k.sig, k.ctr, k.mode, k.task, k.pending, k.sessionResult, k.ident⟩

/-! ### The order of answers -/

/-- Answers taken replace what was in the inbox, and the count of free answers plays no part. -/
theorem State.takeAll_inbox_drawn (l m : List BusSample) (n : Nat) (s : State) :
    State.takeAll l { s with inbox := m, drawn := n } = { State.takeAll l s with drawn := n } := by
  have k := State.takeAll_keeps l s
  rw [show ({ s with inbox := m, drawn := n } : State) = s.beside m s.pending n from rfl, State.takeAll_beside,
    State.beside, ← k.pending]

/-- A list of answers taken in two parts, whatever lies beside the operation. -/
theorem State.takeAll_append_beside (l1 l2 m : List BusSample) (n : Nat) (s : State) :
    State.takeAll (l1 ++ l2) { s with inbox := m, drawn := n } =
      if (State.takeAll l1 s).seq.isSome then State.takeAll l2 { State.takeAll l1 s with drawn := n }
      else { State.takeAll l1 s with inbox := (State.takeAll l1 s).inbox ++ l2, drawn := n } := by
  rw [State.takeAll_inbox_drawn, State.takeAll_append]
  split
  · exact (State.takeAll_inbox_drawn l2 _ n (State.takeAll l1 s)).symm
  · rfl

/-- An operation that still waits has taken every answer given. -/
theorem State.takeAll_inbox_of_inFlight (l : List BusSample) : ∀ s : State, (State.takeAll l s).seq.isSome = true →
    (State.takeAll l s).inbox = [] := by
  induction l with
  | nil => intro s _; rfl
  | cons a l ih =>
    intro s h
    cases hq : s.seq with
    | none => simp [State.takeAll, hq] at h
    | some q =>
      rw [State.takeAll_cons hq] at h ⊢
      exact ih _ h

/-- A step while an operation is in flight and answers are given takes those. -/
theorem step_of_answers {s : State} (hv : s.cfg.valid = true) (hb : s.busy = true) (hi : s.inbox ≠ []) :
    step s = .next (State.takeAll s.inbox s) := by
  unfold step State.chipMove
  rw [if_pos hv, if_pos hb]
  split
  · exact absurd ‹_› hi
  · rfl

/-- A step while an operation is in flight and no answer is given takes one free answer. -/
theorem step_of_noAnswer {s : State} (hv : s.cfg.valid = true) (hb : s.busy = true) (hi : s.inbox = []) :
    step s = .next (State.takeAll [Config.freeSample s.drawn] { s with drawn := s.drawn + 1 }) := by
  simp [step, hv, hb, State.chipMove, hi]

/-- Going on with the answers `l`, by a step if the operation still waits and there are any, takes them. -/
theorem Coherent.goOn_answers {t : State} (hc : Coherent t) (l : List BusSample) (n : Nat) :
    (if t.busy = true ∧ l ≠ [] then step { t with inbox := l, drawn := n } else .next { t with inbox := l, drawn := n })
      = .next (if t.seq.isSome then State.takeAll l { t with drawn := n } else { t with inbox := l, drawn := n }) := by
  rw [← hc.busy]
  by_cases hq : t.busy = true
  · by_cases hl : l = []
    · simp [hl, State.takeAll]
    · have hs := step_of_answers (s := { t with inbox := l, drawn := n }) hc.valid hq hl
      rw [if_pos ⟨hq, hl⟩, if_pos hq, hs]
      exact congrArg _ ((State.takeAll_inbox_drawn l l n t).trans (State.takeAll_inbox_drawn l t.inbox n t).symm)
  · simp [hq]

/-- Settles O55: a free answer is one given, and answers taken in parts are those taken at once. -/
theorem operationsTakeAnswersInOrder : Obligations.OperationsTakeAnswersInOrder := by
  unfold Obligations.OperationsTakeAnswersInOrder
  refine ⟨fun s hc hb hi => ?_, fun s hc hb hi => ?_, fun s i hc hb hi => ?_⟩
  · obtain ⟨q, hq⟩ := Option.isSome_iff_exists.mp (hc.busy.symm.trans hb)
    have hgiven := step_of_answers (s := { s with inbox := [Config.freeSample s.drawn], drawn := s.drawn + 1 })
      hc.valid hb (List.cons_ne_nil _ _)
    rw [step_of_noAnswer hc.valid hb hi, hgiven]
    refine ⟨by rw [State.takeAll_cons (s := { s with drawn := s.drawn + 1 }) hq]; rfl, congrArg _ ?_⟩
    exact (State.takeAll_inbox_drawn _ s.inbox _ s).trans (State.takeAll_inbox_drawn _ _ _ s).symm
  · have ht : Coherent (State.takeAll s.inbox s) := hc.takeAll _
    refine ⟨_, step_of_answers hc.valid hb hi, fun l n => ?_⟩
    have hmore := step_of_answers (s := { s with inbox := s.inbox ++ l, drawn := n }) hc.valid hb
      (List.append_ne_nil_of_left_ne_nil hi l)
    refine (hmore.trans (congrArg _ (s.takeAll_append_beside s.inbox l _ n))).trans ?_
    have hempty := s.takeAll_inbox_of_inFlight s.inbox
    generalize State.takeAll s.inbox s = t at ht hempty
    cases hq : t.seq.isSome with
    | true => simpa [hempty hq, hq] using (ht.goOn_answers l n).symm
    | false => simp [ht.busy, hq]
  · obtain ⟨hq, -⟩ := hc.idle hb
    obtain ⟨t, ht⟩ := exec_of_idle i hb
    refine ⟨t, ht, fun l n => ?_⟩
    exact (exec_answers l n hi hq ht).trans ((hc.exec ht).goOn_answers l n).symm

/-- Settles O5: the request first in line is the word, and no sequence runs before it. -/
theorem stepRunsTheDecodedInstruction : Obligations.StepRunsTheDecodedInstruction := by
  unfold Obligations.StepRunsTheDecodedInstruction
  intro s w i rest hv hb ht hp hd
  simp [step, hv, hb, State.portMove, hp, ht, State.runWord, hd]

/-- Settles O25: every instruction is issued, and nothing is issued while busy. -/
theorem busyPortTakesNothing : Obligations.BusyPortTakesNothing := by
  unfold Obligations.BusyPortTakesNothing
  intro s i hb
  obtain ⟨body, hx, -⟩ := exec_begins i
  rw [hx, issue_of_busy hb]

end Sys2Proof.Machine
end

section
/-! PROOFS of the statements about words (30_encoding): header assembly, decoding and encoding as inverses, and what the
port does with a word that is no legal request. -/

namespace Sys2Proof.Machine

/-! ### Header assembly -/

/-- The header byte as a number: the three fields at their bit places (30_encoding R80, R83). -/
theorem header_toNat : ∀ rw burst : Bool, ∀ a : Addr,
    (header rw burst a).toNat = 128 * rw.toNat + 64 * burst.toNat + a.toNat := by decide

/-- Settles O1: the header of each access code is known, and each transaction sends one with its data. -/
theorem headerAssembly : Obligations.HeaderAssembly := by
  unfold Obligations.HeaderAssembly
  refine ⟨fun rw burst a => ⟨header_toNat rw burst a, header_fields rw burst a⟩, fun a v vs n => ?_⟩
  simp [strobeBytes, wrsBytes, wrbBytes, rdsBytes, rdstatBytes, rdbBytes, dummies, header_strobe_write,
    header_burst_write, header_read, header_burst_read]

/-! ### Brackets -/

theorem inStatRange_iff {a : Nat} : inStatRange a = true ↔ 0x30 ≤ a ∧ a ≤ 0x3D := by simp [inStatRange]

@[simp] theorem dummies_length (n : Nat) : (dummies n).length = n := List.length_replicate

@[simp] theorem mem_dummies {b : Byte} {n : Nat} : b ∈ dummies n ↔ n ≠ 0 ∧ b = 0 := List.mem_replicate

/-- Bytes that are all 0x00 are dummy bytes. -/
theorem dummies_of_all_zero {data : List Byte} (h : data.all (· == 0) = true) : dummies data.length = data :=
  (List.eq_replicate_length.mpr (by simpa using h)).symm

/-- After a header (0, 0): a strobe, or a write of one byte. -/
theorem singleWriteForm_sound {a : Addr} {data : List Byte} {i : Instr} (h : singleWriteForm a data = some i) :
    i.wf = true ∧ encode i = .bus (header false false a :: data) := by
  unfold singleWriteForm at h
  split at h
  · split at h
    · next hs => cases h; exact ⟨hs, rfl⟩
    · cases h
  · split at h
    · cases h
    · next hs => cases h; exact ⟨by simpa [Instr.wf] using hs, rfl⟩
  · cases h

/-- After a header (1, 0): a read of one byte. -/
theorem singleReadForm_sound {a : Addr} {n : Nat} {i : Instr} (h : singleReadForm a n = some i) :
    i.wf = true ∧ encode i = .bus (header true false a :: dummies n) := by
  unfold singleReadForm at h
  split at h
  · next hn => cases h; cases hn; exact ⟨rfl, rfl⟩
  · cases h

/-- After a header (1, 1): a status read of one byte, or a burst read. -/
theorem burstReadForm_sound {a : Addr} {n : Nat} {i : Instr} (h : burstReadForm a n = some i) :
    i.wf = true ∧ encode i = .bus (header true true a :: dummies n) := by
  unfold burstReadForm at h
  split at h
  · next hs =>
    split at h
    · next hn => cases h; cases hn; exact ⟨hs, rfl⟩
    · cases h
  · next hs => cases h; exact ⟨by simpa [Instr.wf] using hs, rfl⟩

/-- A bracket's form is an instruction whose word the bracket is, by the header's access code (30_encoding R81, R82). -/
theorem busForm_sound {h : Byte} {data : List Byte} {i : Instr} (hf : busForm h data = some i) :
    i.wf = true ∧ encode i = .bus (h :: data) := by
  rw [← header_of_fields h] at hf ⊢
  generalize hdrAddr h = a at hf ⊢
  rw [busForm_header] at hf
  match hdrRw h, hdrBurst h, hf with
  | false, false, hf => exact singleWriteForm_sound hf
  | false, true, hf => cases hf; exact ⟨rfl, rfl⟩
  | true, false, hf =>
    obtain ⟨hz, hf⟩ := Option.ite_none_right_eq_some.mp hf
    exact dummies_of_all_zero hz ▸ singleReadForm_sound hf
  | true, true, hf =>
    obtain ⟨hz, hf⟩ := Option.ite_none_right_eq_some.mp hf
    exact dummies_of_all_zero hz ▸ burstReadForm_sound hf

theorem decode_bus_of_form {h : Byte} {data : List Byte} {i : Instr} (hf : busForm h data = some i) :
    decode (.bus (h :: data)) = .ok i := by
  simp [decode, decodeBus, hf]

/-- What decoding a bracket can answer: an instruction with this word, or that no row of the table has it. -/
theorem decode_bus_cases (bytes : List Byte) :
    (∃ i, decode (.bus bytes) = .ok i ∧ i.wf = true ∧ encode i = .bus bytes)
    ∨ decode (.bus bytes) = .error (.outsideTable bytes) := by
  cases bytes with
  | nil => exact .inr rfl
  | cons h data =>
    cases hf : busForm h data with
    | some i => exact .inl ⟨i, decode_bus_of_form hf, busForm_sound hf⟩
    | none => exact .inr (by simp [decode, decodeBus, hf])

/-! ### Operation codes -/

/-- The codes that select no operation (30_encoding R95 a). -/
abbrev UnlistedCode (code : BitVec 5) : Prop := 0x0A ≤ code.toNat ∧ code.toNat ≤ 0x0F ∨ 0x1B ≤ code.toNat

/-- A code is known from its number. -/
theorem eq_ofNat_of_toNat_eq {code : BitVec 5} {k : Nat} (h : code.toNat = k) : code = BitVec.ofNat 5 k := by
  simp [← h]

/-- What decoding an operation can answer: the code is unlisted, or it selects an operation, which has this word or takes
other operands (30_encoding R94, R95 a). -/
theorem decode_op_cases (code : BitVec 5) (args : List Operand) :
    (UnlistedCode code ∧ decode (.op code args) = .error (.illegalOp code))
    ∨ ¬ UnlistedCode code ∧ ((∃ i, decode (.op code args) = .ok i ∧ i.wf = true ∧ encode i = .op code args)
      ∨ ∃ mnemonic, decode (.op code args) = .error (.operandShape mnemonic)) := by
  have hlt := code.isLt
  rw [decode]
  unfold decodeOp
  split
  case h_22 =>
    have hun : UnlistedCode code := by simp only [imp_false] at *; omega
    exact .inl ⟨hun, rfl⟩
  all_goals
    next hcode =>
      refine .inr ⟨by omega, ?_⟩
      obtain rfl := eq_ofNat_of_toNat_eq hcode
      split
      · exact .inl ⟨_, rfl, rfl, rfl⟩
      · exact .inr ⟨_, rfl⟩

/-! ### Decoding and encoding are inverses -/

/-- The word of a well-formed instruction decodes to it. -/
theorem decode_encode {i : Instr} (h : i.wf = true) : decode (encode i) = .ok i := by
  cases i with
  | hdrStrobe a => exact decode_bus_of_form (by rw [busForm_header]; exact if_pos h)
  | hdrWrs a v => exact decode_bus_of_form (by rw [busForm_header]; exact if_neg (by simpa [Instr.wf] using h))
  | hdrWrb a v => exact decode_bus_of_form (by rw [busForm_header])
  | hdrRds a => exact decode_bus_of_form (by simp [busForm_header, singleReadForm])
  | hdrRdstat a => exact decode_bus_of_form (by simpa [busForm_header, burstReadForm, Instr.wf] using h)
  | hdrRdb a n => exact decode_bus_of_form (by simpa [busForm_header, burstReadForm, Instr.wf] using h)
  | _ => rfl

/-- The words that decode to an instruction: its own, if it is well formed, and no other. -/
theorem decode_eq_ok_iff {w : PortWord} {i : Instr} : decode w = .ok i ↔ i.wf = true ∧ encode i = w := by
  refine ⟨fun h => ?_, ?_⟩
  · have hd : ∃ j, decode w = .ok j ∧ j.wf = true ∧ encode j = w := by
      cases w with
      | op code args =>
        obtain ⟨-, he⟩ | ⟨-, hok | ⟨_, he⟩⟩ := decode_op_cases code args
        · exact nomatch h.symm.trans he
        · exact hok
        · exact nomatch h.symm.trans he
      | bus bytes =>
        obtain hok | he := decode_bus_cases bytes
        · exact hok
        · exact nomatch h.symm.trans he
    obtain ⟨j, hj, hword⟩ := hd
    cases h.symm.trans hj
    exact hword
  · rintro ⟨hwf, rfl⟩
    exact decode_encode hwf

/-- Settles O3: case by case over the instructions; a bracket's form is read from its header. -/
theorem decodeOfEncode : Obligations.DecodeOfEncode := by
  unfold Obligations.DecodeOfEncode
  exact fun i h => decode_encode h

/-- Settles O4: an instruction the decoder answers is well formed and the word is its own. -/
theorem encodeOfDecode : Obligations.EncodeOfDecode := by
  unfold Obligations.EncodeOfDecode
  exact fun w i h => decode_eq_ok_iff.mp h

/-- Settles O2: the decoder is run on each of the eleven words. -/
theorem wordsFromTheSpecDecode : Obligations.WordsFromTheSpecDecode := by
  unfold Obligations.WordsFromTheSpecDecode
  decide

/-! ### Words that are refused -/

/-- A word first in line with no sequence running is run, taken from the line. -/
theorem step_of_word {s : State} {w : PortWord} {rest : List Request} (hv : s.cfg.valid = true) (hb : s.busy = false)
    (ht : s.task = none) (hp : s.pending = .word w :: rest) : step s = ({ s with pending := rest } : State).runWord w := by
  simp [step, hv, hb, State.portMove, hp, ht]

theorem State.runWord_of_ok {w : PortWord} {i : Instr} (h : decode w = .ok i) (s : State) : s.runWord w = exec i s := by
  simp [State.runWord, h]

theorem legalWrite_iff {c : Cfg} {a : Nat} : legalWrite c a = true ↔ WritableAddr c a := by
  simp [legalWrite, inCfgRange, isStreamAddr]

theorem legalBurst_iff {c : Cfg} {a n : Nat} : legalBurst c a n = true ↔ BurstAddr c a n := by
  simp [legalBurst, inCfgRange, isStreamAddr]

theorem State.ensure_of {c : Bool} (h : c = true) {code : FaultCode} {go : State → State} {s : State} :
    s.ensure c code go = go s := by
  simp [h]

theorem State.ensure_of_not {c : Bool} (h : ¬ c = true) {code : FaultCode} {go : State → State} {s : State} :
    s.ensure c code go = s.raise code := by
  simp [h]

section
variable {s : State} (ha : s.accepting) (hc : s.csn = false)
include ha hc

/-- An operation whose body raises a fault before it does anything (60_exceptions R268). -/
theorem issue_of_raise {body : State → State} {code : FaultCode} (h : body s.accept = s.accept.raise code) :
    issue s body = .next (s.faultedAfter [] s.inbox code) := by
  rw [issue_of_accepting ha, h, State.settle_raise ha.2 hc]

/-- A bracket's instruction whose bytes are not in the table is refused by the multiplexer (30_encoding R95 b, 41_driver
R131), unless its burst is too long. -/
theorem exec_of_not_inTable {i : Instr} {bytes : List Byte} (hwf : i.wf = true) (he : encode i = .bus bytes)
    (hn : ¬ InTable s.cfg bytes) (hl : bytes.length ≤ s.cfg.burstMax + 1) :
    exec i s = .next (s.faultedAfter [] s.inbox .illegalAccess) := by
  cases i with
  | hdrStrobe a =>
    cases he
    obtain ⟨h1, h2⟩ := inStatRange_iff.mp hwf
    exact absurd (.inl ⟨a, h1, h2, rfl⟩) hn
  | hdrWrs a v =>
    cases he
    exact issue_of_raise ha hc (State.ensure_of_not fun h => hn (.inr (.inl ⟨a, v, legalWrite_iff.mp h, rfl⟩)))
  | hdrWrb a v =>
    cases he
    have hlen : v.length ≤ s.cfg.burstMax := by simpa using hl
    exact issue_of_raise ha hc ((State.ensure_of (decide_eq_true hlen)).trans
      (State.ensure_of_not fun h => hn (.inr (.inr (.inl ⟨a, v, legalBurst_iff.mp h, rfl⟩)))))
  | hdrRds a =>
    cases he
    exact issue_of_raise ha hc
      (State.ensure_of_not fun h => hn (.inr (.inr (.inr (.inl ⟨a, of_decide_eq_true h, rfl⟩)))))
  | hdrRdstat a =>
    cases he
    obtain ⟨h1, h2⟩ := inStatRange_iff.mp hwf
    exact absurd (.inr (.inr (.inr (.inr (.inl ⟨a, h1, h2, rfl⟩))))) hn
  | hdrRdb a n =>
    cases he
    have hlen : n ≤ s.cfg.burstMax := by simpa using hl
    exact issue_of_raise ha hc ((State.ensure_of (decide_eq_true hlen)).trans
      (State.ensure_of_not fun h => hn (.inr (.inr (.inr (.inr (.inr ⟨a, n, legalBurst_iff.mp h, rfl⟩)))))))
  | _ => cases he

/-- A word that is no instruction is refused with the fault of its error (60_exceptions R267; 30_encoding R95). -/
theorem State.runWord_of_error {w : PortWord} {e : DecodeError} {code : FaultCode} (h : decode w = .error e)
    (hr : s.rejectWord e = issue s (State.raise code)) :
    s.runWord w = .next (s.faultedAfter [] s.inbox code) := by
  unfold State.runWord
  rw [h]
  exact hr.trans (issue_of_raise ha hc rfl)

end

/-- Settles O6: a code is unlisted, or takes other operands; a bracket does not decode, or its instruction is refused. -/
theorem wordsOutsideTheTableRaise : Obligations.WordsOutsideTheTableRaise := by
  unfold Obligations.WordsOutsideTheTableRaise
  refine ⟨fun s code args rest hcoh ha ht hp => ⟨fun hun => ?_, fun hlisted hno => ?_⟩,
    fun s bytes rest hcoh ha ht hp hn hl => ?_⟩
  all_goals
    have hc : s.csn = false := (hcoh.idle ha.1).2
    have hacc : ({ s with pending := rest } : State).accepting := ha
    rw [step_of_word hcoh.valid ha.1 ht hp]
  · obtain ⟨-, he⟩ | ⟨hnot, -⟩ := decode_op_cases code args
    · exact State.runWord_of_error hacc hc he rfl
    · exact absurd hun hnot
  · obtain ⟨hun, -⟩ | ⟨-, ⟨i, -, -, hi⟩ | ⟨_, he⟩⟩ := decode_op_cases code args
    · exact absurd hun hlisted
    · exact absurd hi (hno i)
    · exact State.runWord_of_error hacc hc he rfl
  · obtain ⟨i, hi, hwf, henc⟩ | he := decode_bus_cases bytes
    · rw [State.runWord_of_ok hi]
      exact exec_of_not_inTable hacc hc hwf henc hn hl
    · exact State.runWord_of_error hacc hc he rfl

end Sys2Proof.Machine
end

section
/-! PROOFS of the statements about a bus transaction the chip does not serve (40_bus R112, R113): it waits, it is given up,
or its exchange fails. -/

namespace Sys2Proof.Machine

/-! ### Taking one answer, by what it says -/

/-- Within a finite `POLL_LIMIT` is at most that many attempts (60_exceptions R263). -/
theorem withinLimit_iff {c : Cfg} {l n : Nat} (hl : c.pollLimit = some l) : withinLimit c n ↔ n ≤ l := by
  simp [withinLimit, passesLimit, hl]

section
variable {s : State} {pos : Pos} {txn : Txn} {a : BusSample} (hq : s.seq = some ⟨pos, txn⟩)
include hq

/-- `RDY` sampled 1: the exchange begins (40_bus R112). -/
theorem State.takeSample_of_rdy (hr : txn.ready = false) (ha : a.rdy = true) :
    s.takeSample a = (s.emit .ready).setTxn pos { txn with ready := true } := by
  simp [State.takeSample, hq, hr, ha]

/-- `RDY` sampled 0 once more than `POLL_LIMIT` allows (60_exceptions R263). -/
theorem State.takeSample_of_pastLimit (hr : txn.ready = false) (ha : a.rdy = false)
    (hl : passesLimit s.cfg.pollLimit (txn.attempts + 1) = true) : s.takeSample a = s.raise .deviceUnresponsive := by
  simp [State.takeSample, hq, hr, ha, State.pollGuard, hl]

/-- The transport reports that the exchange failed (40_bus R113). -/
theorem State.takeSample_of_fail (hr : txn.ready = true) (ha : a.fail = true) :
    s.takeSample a = (s.emit (.exchangeFailed txn.bytesOut)).raise .transportFault := by
  simp [State.takeSample, hq, hr, ha]

/-- A byte arrives and more are to come. -/
theorem State.takeSample_of_byte (hr : txn.ready = true) (ha : a.fail = false)
    (hl : txn.got.length + 1 < txn.bytesOut.length) :
    s.takeSample a = s.setTxn pos { txn with got := txn.got ++ [a.data] } := by
  simp [State.takeSample, hq, hr, ha, hl]

end

/-! ### Taking the answers of a chip that does not serve the transaction -/

/-- A fault raised with the chip selected: it is deselected, and the answers left over stay unused (60_exceptions R268). -/
theorem State.takeAll_raise_of_selected {s : State} (hc : s.csn = true) (hf : s.fault = .none) (code : FaultCode)
    (rest : List BusSample) :
    State.takeAll rest (s.raise code) = { s.faultedAfter [] rest code with trace := .deselect :: s.trace } := by
  rw [State.takeAll_of_idle rfl]
  simp [State.raise, State.deselect, State.faultedAfter, logStatus, hc, hf]

/-- Samples of `RDY` = 0 and nothing else: the attempts are counted, and the operation goes on waiting. -/
theorem State.takeAll_of_notReady {s : State} {pos : Pos} {out : List Byte} {k : Nat} {waits : List BusSample}
    (hq : s.seq = some ⟨pos, ⟨out, false, k, []⟩⟩) (hw : ∀ x ∈ waits, x.rdy = false)
    (hl : withinLimit s.cfg (k + waits.length)) :
    State.takeAll waits s = { s with inbox := [], seq := some ⟨pos, ⟨out, false, k + waits.length, []⟩⟩ } := by
  have h := State.takeAll_waits waits [] hq hw hl
  rwa [List.append_nil] at h

/-- Samples of `RDY` = 0 within `POLL_LIMIT`, then one of `RDY` = 1: the exchange begins (40_bus R112). -/
theorem State.takeAll_ready {s : State} {pos : Pos} {out : List Byte} {k : Nat} {waits : List BusSample} {a : BusSample}
    (hq : s.seq = some ⟨pos, ⟨out, false, k, []⟩⟩) (hw : ∀ x ∈ waits, x.rdy = false)
    (hl : withinLimit s.cfg (k + waits.length)) (ha : a.rdy = true) (rest : List BusSample) :
    State.takeAll (waits ++ a :: rest) s =
      State.takeAll rest ((s.emit .ready).setTxn pos ⟨out, true, k + waits.length, []⟩) := by
  rw [State.takeAll_waits waits _ hq hw hl, State.takeAll_cons rfl, State.takeSample_of_rdy rfl rfl ha]
  rfl

/-- All samples but the last only count attempts; the last one passes `POLL_LIMIT`. -/
theorem State.takeAll_gaveUp {s : State} {pos : Pos} {out : List Byte} {k l : Nat} {waits : List BusSample}
    (hq : s.seq = some ⟨pos, ⟨out, false, k, []⟩⟩) (hc : s.csn = true) (hf : s.fault = .none)
    (hl : s.cfg.pollLimit = some l) (hk : k ≤ l) (hlen : k + waits.length = l + 1) (hw : ∀ x ∈ waits, x.rdy = false)
    (rest : List BusSample) :
    State.takeAll (waits ++ rest) s =
      { s.faultedAfter [] rest .deviceUnresponsive with trace := .deselect :: s.trace } := by
  obtain rfl | ⟨first, last, rfl⟩ := waits.eq_nil_or_concat'
  · exact absurd hlen (by simp; omega)
  · have hcount : k + first.length = l := by simpa [← Nat.add_assoc] using hlen
    have hwithin : withinLimit s.cfg (k + first.length) := (withinLimit_iff hl).mpr hcount.le
    have hpast : passesLimit s.cfg.pollLimit (k + first.length + 1) = true := by simp [passesLimit, hl, hcount]
    rw [List.append_assoc, State.takeAll_waits first _ hq (fun x hx => hw x (by simp [hx])) hwithin,
      List.singleton_append, State.takeAll_cons rfl, State.takeSample_of_pastLimit rfl rfl (hw last (by simp)) hpast]
    exact State.takeAll_raise_of_selected (s := s.setTxn pos _) hc hf _ rest

/-- Bytes that arrive without failure are kept until the report comes; it deselects the chip and drops them (40_bus
R113). -/
theorem State.takeAll_failed {pos : Pos} {data : List BusSample} {bad : BusSample} (rest : List BusSample)
    (hbad : bad.fail = true) : ∀ {s : State} {txn : Txn}, s.seq = some ⟨pos, txn⟩ → s.csn = true → s.fault = .none →
      txn.ready = true → (∀ x ∈ data, x.fail = false) → txn.got.length + data.length < txn.bytesOut.length →
      State.takeAll (data ++ bad :: rest) s = { s.faultedAfter [] rest .transportFault with
        trace := .deselect :: .exchangeFailed txn.bytesOut :: s.trace } := by
  induction data with
  | nil =>
    intro s txn hq hc hf hr _ _
    rw [List.nil_append, State.takeAll_cons hq, State.takeSample_of_fail hq hr hbad]
    exact State.takeAll_raise_of_selected (s := s.emit _) hc hf _ rest
  | cons a data ih =>
    intro s txn hq hc hf hr hdata hlen
    rw [List.length_cons] at hlen
    rw [List.cons_append, State.takeAll_cons hq, State.takeSample_of_byte hq hr (hdata a (by simp)) (by omega)]
    exact ih (s := s.setTxn pos _) (txn := { txn with got := txn.got ++ [a.data] }) rfl hc hf hr
      (fun x hx => hdata x (by simp [hx])) (by simp; omega)

/-! ### Beginning and going on -/

/-- A strobe number that fits the address field is the byte sent (40_bus R115). -/
theorem strobeBytes_field6 {code : Byte} (h : code.toNat < 64) : strobeBytes (field6 code) = [code] := by
  rw [strobeBytes, header_strobe_write, field6_setWidth code h]

/-- An address that fits the address field is the header of a single write (40_bus R116). -/
theorem wrsBytes_field6 {addr : Byte} (h : addr.toNat < 64) (v : Byte) : wrsBytes (field6 addr) v = [addr, v] := by
  rw [wrsBytes, header_strobe_write, field6_setWidth addr h]

/-- A strobe of a legal code selects the chip and takes the answers given. -/
theorem exec_strobe_of_legal {s : State} {code : Byte} (ha : s.accepting) (h : 0x30 ≤ code.toNat)
    (h' : code.toNat ≤ 0x3D) :
    exec (.strobe code) s = .next (State.takeAll s.inbox (s.accept.beginTxn .strobe [code])) := by
  rw [exec, execStrobe, issue_of_accepting ha, State.ensure_of (c := legalStrobe code.toNat) (inStatRange_of h h'),
    State.beginStrobe, strobeBytes_field6 (by omega)]
  rfl

/-- A write to a legal address selects the chip and takes the answers given. -/
theorem exec_writeReg_of_legal {s : State} {addr : Byte} (ha : s.accepting) (h : WritableAddr s.cfg addr.toNat) (v : Byte) :
    exec (.writeReg addr v) s = .next (State.takeAll s.inbox (s.accept.beginTxn .write [addr, v])) := by
  rw [exec, execWriteReg, issue_of_accepting ha, State.ensure_of (c := legalWrite s.accept.cfg addr.toNat) (legalWrite_of h),
    wrsBytes_field6 h.lt]
  rfl

/-- A transaction that awaits ready has received nothing, and its attempts are within `POLL_LIMIT`. -/
theorem Coherent.waiting {s : State} {pos : Pos} {txn : Txn} (h : Coherent s) (hq : s.seq = some ⟨pos, txn⟩)
    (hr : txn.ready = false) : ∃ out k, txn = ⟨out, false, k, []⟩ ∧ withinLimit s.cfg k := by
  obtain ⟨-, -, -, -, hgot, hl⟩ := h.inFlight hq
  obtain ⟨out, ready, k, got⟩ := txn
  obtain rfl : ready = false := hr
  obtain rfl : got = [] := hgot rfl
  exact ⟨out, k, rfl, hl⟩

/-! ### The statements -/

/-- Settles O26: the samples of a waiting transaction count up to `POLL_LIMIT`, and the last one passes it. -/
theorem notReadyGivesUpAtTheLimit : Obligations.NotReadyGivesUpAtTheLimit := by
  unfold Obligations.NotReadyGivesUpAtTheLimit
  refine ⟨fun s code waits rest l ha h h' hl hlen hw hi => ?_, fun s pos txn waits rest l hco hq hr hl hlen hw hi => ?_⟩
  · rw [exec_strobe_of_legal ha h h', hi, State.takeAll_gaveUp (s := s.accept.beginTxn .strobe [code]) rfl rfl ha.2 hl
      (Nat.zero_le l) (by omega) hw]
    rfl
  · obtain ⟨hb, hc, hf, -⟩ := hco.inFlight hq
    obtain ⟨out, k, rfl, hwithin⟩ := hco.waiting hq hr
    have hk : k ≤ l := (withinLimit_iff hl).mp hwithin
    have hlen : k + waits.length = l + 1 := hlen
    have hwaits : waits ≠ [] := List.length_pos_iff.mp (by omega)
    have hne : s.inbox ≠ [] := by simp [hi, hwaits]
    rw [step_of_answers hco.valid hb hne, hi, State.takeAll_gaveUp hq hc hf hl hk hlen hw]
    rfl

/-- Settles O27: the bytes before the report change nothing but the transaction, which the fault discards. -/
theorem failedExchangeRaisesTransportFault : Obligations.FailedExchangeRaisesTransportFault := by
  unfold Obligations.FailedExchangeRaisesTransportFault
  refine ⟨fun s addr v waits data rest r bad ha h hw hl hr hd hlen hbad hi => ?_,
    fun s pos txn data rest bad hco hq hr hd hlen hbad hi => ?_⟩
  · have hfail := State.takeAll_failed
      (s := ((s.accept.beginTxn .write [addr, v]).emit .ready).setTxn .write ⟨[addr, v], true, 0 + waits.length, []⟩)
      rest hbad rfl rfl ha.2 rfl hd (by simpa using hlen)
    rw [exec_writeReg_of_legal ha h, hi, State.takeAll_ready (s := s.accept.beginTxn .write [addr, v]) rfl hw
      (by simpa using hl) hr, hfail]
    rfl
  · obtain ⟨hb, hc, hf, -⟩ := hco.inFlight hq
    have hne : s.inbox ≠ [] := by simp [hi]
    rw [step_of_answers hco.valid hb hne, hi, State.takeAll_failed rest hbad hq hc hf hr hd hlen]
    rfl

/-- Settles O28: samples of `RDY` = 0 within `POLL_LIMIT` are counted, from 0 for a strobe just issued. -/
theorem operationWaitsForReady : Obligations.OperationWaitsForReady := by
  unfold Obligations.OperationWaitsForReady
  refine ⟨fun s code ha h h' hw hl => ?_, fun s pos txn hco hq hr hne hw hl => ?_⟩
  · rw [exec_strobe_of_legal ha h h',
      State.takeAll_of_notReady (s := s.accept.beginTxn .strobe [code]) rfl hw (by simpa using hl), Nat.zero_add]
    rfl
  · obtain ⟨hb, -⟩ := hco.inFlight hq
    obtain ⟨out, k, rfl, -⟩ := hco.waiting hq hr
    rw [step_of_answers hco.valid hb hne, State.takeAll_of_notReady hq hw hl]

end Sys2Proof.Machine
end

section
/-! PROOFS of the statements about the register driver operations (41_driver_ops): what each does when the chip serves it,
when it gives up or is refused, and what `TRANSMIT_FIFO` keeps at every step. -/

namespace Sys2Proof.Machine

/-! ### The bytes of a bracket -/

/-- A strobe sends its code (40_bus R115). -/
theorem strobeBytes_eq (a : Addr) : strobeBytes a = [a.setWidth 8] := by rw [strobeBytes, header_strobe_write]

/-- `WRS` sends `[a, v]` (40_bus R116). -/
theorem wrsBytes_eq (a : Addr) (v : Byte) : wrsBytes a v = [a.setWidth 8, v] := by rw [wrsBytes, header_strobe_write]

/-- `WRB` sends `[0x40 | a]` and the data (40_bus R117). -/
theorem wrbBytes_eq (a : Addr) (v : List Byte) : wrbBytes a v = (0x40 ||| a.setWidth 8) :: v := by
  rw [wrbBytes, header_burst_write]

/-- `RDS` sends `[0x80 | a, 0x00]` (40_bus R118). -/
theorem rdsBytes_eq (a : Addr) : rdsBytes a = [0x80 ||| a.setWidth 8, 0x00] := by
  rw [rdsBytes, header_read]
  rfl

/-- `RDSTAT` sends `[0xC0 | a, 0x00]` (40_bus R119). -/
theorem rdstatBytes_eq (a : Addr) : rdstatBytes a = [0xC0 ||| a.setWidth 8, 0x00] := by
  rw [rdstatBytes, header_burst_read]
  rfl

/-- `RDB` sends `[0xC0 | a]` and `n` dummy bytes (40_bus R120). -/
theorem rdbBytes_eq (a : Addr) (n : Nat) : rdbBytes a n = (0xC0 ||| a.setWidth 8) :: List.replicate n 0x00 := by
  rw [rdbBytes, header_burst_read]
  rfl

section
variable {addr : Byte} (h : addr.toNat < 64)
include h

theorem wrbBytes_field6 (v : List Byte) : wrbBytes (field6 addr) v = (0x40 ||| addr) :: v := by
  rw [wrbBytes_eq, field6_setWidth addr h]

theorem rdsBytes_field6 : rdsBytes (field6 addr) = [0x80 ||| addr, 0x00] := by
  rw [rdsBytes_eq, field6_setWidth addr h]

theorem rdstatBytes_field6 : rdstatBytes (field6 addr) = [0xC0 ||| addr, 0x00] := by
  rw [rdstatBytes_eq, field6_setWidth addr h]

theorem rdbBytes_field6 (n : Nat) : rdbBytes (field6 addr) n = (0xC0 ||| addr) :: List.replicate n 0x00 := by
  rw [rdbBytes_eq, field6_setWidth addr h]

end

/-! ### Operations of one transaction -/

/-- An accepted operation whose body begins its one transaction, when the chip serves it. -/
theorem issue_single {s : State} {body : State → State} {pos : Pos} {out sent : List Byte} {st : Byte} {sts : List Byte}
    {rest : List BusSample} {r : OpResult} (ha : s.accepting) (h : Served s.cfg (st :: sts) s.inbox rest)
    (hbody : body s.accept = s.accept.beginTxn pos out) (hout : out = sent) (hl : sent.length = (st :: sts).length)
    (hr : ∀ t : State, t.resume pos (st :: sts) = t.finish r) :
    issue s body = .next (s.served [(sent, st :: sts)] rest r) := by
  subst hout
  rw [issue_of_accepting ha, hbody, State.settle_single h hl (List.cons_ne_nil _ _) hr]

/-- Settles O8: a legal code passes the check, and its strobe is the one transaction. -/
theorem strobeCompletes : Obligations.StrobeCompletes := by
  unfold Obligations.StrobeCompletes
  intro s st rest ha hs
  refine ⟨fun code h h' => ?_, fun a h h' => ?_⟩
  · exact issue_single ha hs (State.ensure_of (inStatRange_of h h')) (strobeBytes_field6 (by omega)) rfl fun _ => rfl
  · exact issue_single ha hs (State.ensure_of (inStatRange_of h h')) (strobeBytes_eq a) rfl fun _ => rfl

/-- Settles O9: a writable address passes the check, and the write is the one transaction. -/
theorem writeRegCompletes : Obligations.WriteRegCompletes := by
  unfold Obligations.WriteRegCompletes
  intro s st st' v rest ha hs
  refine ⟨fun addr h => ?_, fun a h => ?_⟩
  · exact issue_single ha hs (State.ensure_of (legalWrite_of h)) (wrsBytes_field6 h.lt v) rfl fun _ => rfl
  · exact issue_single ha hs (State.ensure_of (legalWrite_of h)) (wrsBytes_eq a v) rfl fun _ => rfl

/-- A burst of a length within `BURST_MAX` at a legal start passes both checks. -/
theorem State.ensure_burst {s t : State} {a n : Nat} {go : State → State} (hn : n ≤ s.cfg.burstMax)
    (h : BurstAddr s.cfg a n) (hgo : go s = t) :
    (s.ensure (n ≤ s.cfg.burstMax) .illegalOperand fun s => s.ensure (legalBurst s.cfg a n) .illegalAccess go) = t := by
  rw [State.ensure_of (decide_eq_true hn), State.ensure_of (legalBurst_of h), hgo]

/-- Settles O10: the burst is the one transaction, its length being neither above `BURST_MAX` nor zero. -/
theorem writeBurstCompletes : Obligations.WriteBurstCompletes := by
  unfold Obligations.WriteBurstCompletes
  intro s st sts v rest ha hs hlen hv hmax
  refine ⟨fun addr h => ?_, fun a h => ?_⟩
  · exact issue_single ha hs (State.ensure_burst hmax h (if_neg hv)) (wrbBytes_field6 h.lt v)
      (by simp [hlen]) fun _ => rfl
  · exact issue_single ha hs (State.ensure_burst hmax h (if_neg hv)) (wrbBytes_eq a v) (by simp [hlen]) fun _ => rfl

/-- Settles O17: the burst is the one transaction; what it received after the status byte is the result. -/
theorem readBurstCompletes : Obligations.ReadBurstCompletes := by
  unfold Obligations.ReadBurstCompletes
  intro s st data rest ha hs hne hmax
  have hn : data.length ≠ 0 := by simpa using hne
  refine ⟨fun addr h => ?_, fun a h => ?_⟩
  · exact issue_single ha hs (State.ensure_burst hmax h (if_neg hn)) (rdbBytes_field6 h.lt _) (by simp) fun _ => rfl
  · exact issue_single ha hs (State.ensure_burst hmax h (if_neg hn)) (rdbBytes_eq a _) (by simp) fun _ => rfl

/-- An accepted operation whose body completes at once. -/
theorem issue_answered {s : State} {body : State → State} {r : OpResult} (ha : s.accepting)
    (hbody : body s.accept = s.accept.finish r) : issue s body = .next (s.answered r) := by
  rw [issue_of_accepting ha, hbody, State.settle_finish]

/-- Settles O11: a burst of zero bytes passes both checks and completes at once. -/
theorem emptyBurstsTouchNoBus : Obligations.EmptyBurstsTouchNoBus := by
  unfold Obligations.EmptyBurstsTouchNoBus
  intro s ha
  refine ⟨fun addr h => ⟨?_, ?_⟩, fun a h => ⟨?_, ?_⟩⟩
  all_goals exact issue_answered ha (State.ensure_burst (Nat.zero_le _) h rfl)

theorem inSyncSet_iff {c : Cfg} {a : Addr} : inSyncSet c a = true ↔ a ∈ c.syncSet := by simp [inSyncSet]

/-- A status register outside `SYNC_SET` is begun as one read, one inside it through the arbiter. -/
theorem readReg_status_body {s : State} {addr : Byte} (h : 0x30 ≤ addr.toNat) (h' : addr.toNat ≤ 0x3D) :
    (s.ensure (legalReadStat addr.toNat) .illegalAccess fun s =>
        if inSyncSet s.cfg (field6 addr) then s.beginArbiter .readReg (field6 addr)
        else s.beginTxn .readOne (rdstatBytes (field6 addr))) =
      if field6 addr ∈ s.cfg.syncSet then s.beginArbiter .readReg (field6 addr)
      else s.beginTxn .readOne (rdstatBytes (field6 addr)) := by
  rw [State.ensure_of (c := legalReadStat _) (inStatRange_of h h')]
  simp only [inSyncSet_iff]

/-- Settles O12: each read is the one transaction. -/
theorem plainReadCompletes : Obligations.PlainReadCompletes := by
  unfold Obligations.PlainReadCompletes
  intro s st v rest ha hs
  refine ⟨fun addr h => ?_, fun addr h h' hsync => ?_, fun a h => ?_, fun a h h' => ?_⟩
  · exact issue_single ha hs (State.ensure_of (decide_eq_true h)) (rdsBytes_field6 (by omega)) rfl fun _ => rfl
  · exact issue_single ha hs ((readReg_status_body h h').trans (if_neg hsync)) (rdstatBytes_field6 (by omega)) rfl
      fun _ => rfl
  · exact issue_single ha hs (State.ensure_of (decide_eq_true h)) (rdsBytes_eq a) rfl fun _ => rfl
  · exact issue_single ha hs (State.ensure_of (inStatRange_of h h')) (rdstatBytes_eq a) rfl fun _ => rfl

/-- Settles O7: the pulse list, the served strobe and the settling delay, one after the other. -/
theorem resetCompletes : Obligations.ResetCompletes := by
  unfold Obligations.ResetCompletes
  intro s st rest ha hs
  obtain ⟨level, hpulses⟩ := s.accept.pulses_eq s.cfg.rstSeq
  rw [exec, execReset, issue_of_accepting ha, State.accept_cfg, hpulses]
  have hstrobe := State.takeAll_strobe (s := { s.accept with csn := level, trace := pulseTrace s.cfg.rstSeq ++ s.trace })
    (pos := .chipReset) (code := s.cfg.sReset) hs
  refine congrArg _ (hstrobe.trans ?_)
  rw [State.resume, State.takeAll_of_idle rfl, strobed, strobeBytes_eq]
  rfl

/-! ### `STATUS_DECODE` -/

/-- The fields of the status byte, from its number (30_encoding R84). -/
theorem statusNotReady_eq : ∀ v : Byte, statusNotReady v = decide (128 ≤ v.toNat) := by decide

theorem statusFifo_eq : ∀ v : Byte, statusFifo v = BitVec.ofNat 4 (v.toNat % 16) := by decide

theorem statusCode_toNat : ∀ v : Byte, (statusCode v).toNat = v.toNat / 16 % 8 := by decide

/-- `STATE_TABLE` is read at the code's place (30_encoding R85). -/
theorem StateTable.getElem?_code (t : StateTable) (code : BitVec 3) :
    [t.s0, t.s1, t.s2, t.s3, t.s4, t.s5, t.s6, t.s7][code.toNat]? = some (StateTable.name t code) := by
  have hlt : code.toNat < 8 := code.isLt
  unfold StateTable.name
  generalize code.toNat = k at hlt
  interval_cases k <;> rfl

/-- Settles O21: with a value latched its fields are answered, without one the operation is refused. -/
theorem statusDecodeReadsTheLatch : Obligations.StatusDecodeReadsTheLatch := by
  unfold Obligations.StatusDecodeReadsTheLatch
  refine fun s ha => ⟨fun v hv => ⟨StateTable.name s.cfg.stateTable (statusCode v), ?_, ?_⟩, fun hv hc => ?_⟩
  · rw [← statusCode_toNat]
    exact StateTable.getElem?_code _ _
  · rw [exec, execStatusDecode]
    refine issue_answered ha ?_
    simp [hv, statusFields, statusNotReady_eq, statusFifo_eq]
  · rw [exec, execStatusDecode]
    exact issue_of_raise ha hc (by simp [hv])

/-! ### The median -/

theorem byteMin_toNat (a b : Byte) : (byteMin a b).toNat = min a.toNat b.toNat := by
  unfold byteMin
  split <;> omega

theorem byteMax_toNat (a b : Byte) : (byteMax a b).toNat = max a.toNat b.toNat := by
  unfold byteMax
  split <;> omega

theorem median3_toNat (r0 r1 r2 : Byte) : (median3 r0 r1 r2).toNat =
    max (min r0.toNat r1.toNat) (min (max r0.toNat r1.toNat) r2.toNat) := by
  rw [median3, byteMax_toNat, byteMin_toNat, byteMin_toNat, byteMax_toNat]

/-- Putting two numbers in order. -/
theorem perm_min_max (a b : Nat) : [a, b].Perm [min a b, max a b] := by
  rcases le_total a b with h | h
  · simp [h]
  · simpa [h] using List.Perm.swap b a []

/-- The median's minima and maxima put three numbers in order: the first two, then the greater of them and the third, then
the lesser ones. -/
theorem perm_min_median_max (a b c : Nat) :
    [a, b, c].Perm [min a (min b c), max (min a b) (min (max a b) c), max a (max b c)] := by
  have h1 : [a, b, c].Perm [min a b, max a b, c] := (perm_min_max a b).append_right [c]
  have h2 : [min a b, max a b, c].Perm [min a b, min (max a b) c, max (max a b) c] := (perm_min_max _ c).cons _
  have h3 := (perm_min_max (min a b) (min (max a b) c)).append_right [max (max a b) c]
  have hleast : min (min a b) (min (max a b) c) = min a (min b c) := by omega
  rw [max_assoc] at h2 h3
  rw [hleast] at h3
  exact h1.trans (h2.trans h3)

/-- Settles O16: the median as a number is the middle one. -/
theorem medianIsTheMiddleValue : Obligations.MedianIsTheMiddleValue := by
  unfold Obligations.MedianIsTheMiddleValue
  intro r0 r1 r2
  rw [median3_toNat]
  exact ⟨perm_min_median_max _ _ _, by omega, by omega⟩

/-! ### Procedures as logs of transactions -/

/-- In a block of configuration `c`, doing `f` while the chip serves the transactions of `log` comes to doing `g` after
them. -/
def Does (c : Cfg) (f : State → State) (log : List Exchanged) (g : State → State) : Prop :=
  ∀ (s : State) (l rest : List BusSample), s.cfg = c → ServedAll c (log.map Prod.snd) l rest →
    State.takeAll l (f s) = State.takeAll rest (g (State.didAll log s))

section
variable {c : Cfg} {f g h : State → State} {log log' : List Exchanged}

/-- Procedures follow one another. -/
theorem Does.trans (hf : Does c f log g) (hg : Does c g log' h) : Does c f (log ++ log') h := by
  intro s l rest hc hs
  rw [List.map_append, servedAll_append] at hs
  obtain ⟨mid, h1, h2⟩ := hs
  rw [hf s l mid hc h1, hg _ mid rest (by simp [hc]) h2, State.didAll_append]

/-- What a procedure begins with, said otherwise. -/
theorem Does.of_eq (he : ∀ s : State, s.cfg = c → h s = f s) (hf : Does c f log g) : Does c h log g := by
  intro s l rest hc hs
  rw [he s hc, hf s l rest hc hs]

/-- Nothing done. -/
theorem Does.nil (he : ∀ s : State, s.cfg = c → f s = g s) : Does c f [] g := by
  rintro s l rest hc ⟨⟩
  rw [he s hc]
  rfl

/-- One transaction, and what its position goes on with. -/
theorem Does.txn {pos : Pos} {out inn : List Byte} (hlen : out.length = inn.length) (hne : inn ≠ [])
    (he : ∀ s : State, s.cfg = c → s.resume pos inn = g s) : Does c (State.beginTxn pos out) [(out, inn)] g := by
  rintro s l rest rfl ⟨mid, h1, rfl⟩
  rw [State.takeAll_txn (out, inn) h1 hlen hne, he _ (by simp)]
  rfl

theorem Does.strobe {pos : Pos} {code : Addr} {st : Byte} (he : ∀ s : State, s.cfg = c → s.resume pos [st] = g s) :
    Does c (State.beginStrobe pos code) [strobed code st] g :=
  Does.txn rfl (List.cons_ne_nil _ _) he

theorem Does.arbiter {use : ArbUse} {a : Addr} {v : Byte} (hlog : ArbiterLog c a v log) :
    Does c (State.beginArbiter use a) log (State.arbiterDone use v) := by
  rintro s l rest rfl hs
  exact State.takeAll_arbiter hlog hs

theorem Does.median {use : MedUse} {a : Addr} {v : Byte} (hlog : MedianLog a v log) :
    Does c (State.beginMedian use a) log (State.medianDone use v) := by
  rintro s l rest rfl hs
  exact State.takeAll_median hlog hs

end

/-- An accepted operation whose procedure ends with result `r` after the transactions of `log`, which the chip serves. -/
theorem issue_served {s : State} {body : State → State} {pos : Pos} {out : List Byte} {log : List Exchanged}
    {rest : List BusSample} {r : OpResult} (ha : s.accepting) (hs : ServedAll s.cfg (log.map Prod.snd) s.inbox rest)
    (hne : log ≠ []) (hbody : body s.accept = s.accept.beginTxn pos out)
    (hdoes : Does s.cfg (State.beginTxn pos out) log (State.finish r)) :
    issue s body = .next (s.served log rest r) := by
  rw [issue_of_accepting ha, hbody, ← State.takeAll_didAll_finish hne, ← hdoes s.accept s.inbox rest rfl hs]
  rfl

/-- Settles O13: the arbiter runs until its log ends, and the value agreed on is the result. -/
theorem arbiterReturnsFirstAgreement : Obligations.ArbiterReturnsFirstAgreement := by
  unfold Obligations.ArbiterReturnsFirstAgreement
  intro s addr v log rest ha h h' hsync hlog hs
  exact issue_served ha hs hlog.ne_nil ((readReg_status_body h h').trans (if_pos hsync)) (.arbiter hlog)

/-- Settles O15: the median's three reads, and its value is the result. -/
theorem medianReadCompletes : Obligations.MedianReadCompletes := by
  unfold Obligations.MedianReadCompletes
  intro s addr r0 r1 r2 rest ha h h' hs
  exact issue_served ha hs (List.cons_ne_nil _ _) (State.ensure_of (inStatRange_of h h'))
    (.median ⟨r0, r1, r2, rfl, rfl⟩)

/-! ### `RECEIVE_FIFO` -/

/-- Occupancy and radio state known, the FIFO's bytes are read unless the radio overflowed or nothing is there; then the
receiver is re-armed (41_driver R137). -/
theorem Does.receiveBody {c : Cfg} {maxLen occ : Nat} {m : Byte} {dataLog : List Exchanged} {result : List Byte}
    (hdata : if m &&& c.marcMask = c.marcRxovf ∨ min occ maxLen = 0 then dataLog = [] ∧ result = []
      else result.length = min occ maxLen
        ∧ ∃ st, dataLog = [((0xC0 ||| c.aFifo.setWidth 8) :: List.replicate result.length 0x00, st :: result)]) :
    Does c (State.receiveBody maxLen occ m) dataLog (State.beginRearm result) := by
  have hbody (s : State) (hc : s.cfg = c) : s.receiveBody maxLen occ m =
      if m &&& c.marcMask = c.marcRxovf ∨ min occ maxLen = 0 then s.beginRearm []
      else s.beginTxn .rxData (rdbBytes c.aFifo (min occ maxLen)) := by
    subst hc
    rw [ite_or]
    rfl
  split at hdata
  · next hempty =>
    obtain ⟨rfl, rfl⟩ := hdata
    exact .nil fun s hc => (hbody s hc).trans (if_pos hempty)
  · next hsome =>
    obtain ⟨hlen, st, rfl⟩ := hdata
    rw [← rdbBytes_eq, hlen]
    refine .of_eq (fun s hc => (hbody s hc).trans (if_neg hsome)) (.txn ?_ (List.cons_ne_nil _ _) fun s _ => rfl)
    simp [rdbBytes, hlen]

/-- The re-arm strobes idle, flush-RX and RX, with the result (41_driver R137). -/
theorem Does.rearm (c : Cfg) (result : List Byte) (st0 st1 st2 : Byte) : Does c (State.beginRearm result)
    [strobed c.sIdle st0, strobed c.sFlushRx st1, strobed c.sRx st2] (State.finish (.bytes result)) := by
  rintro s l rest rfl hs
  exact State.takeAll_rearm hs

/-- Settles O18: occupancy and radio state through the arbiter, the data if there is any, the re-arm strobes. -/
theorem receiveFifoCompletes : Obligations.ReceiveFifoCompletes := by
  unfold Obligations.ReceiveFifoCompletes
  intro s maxLen o m st0 st1 st2 occLog marcLog dataLog result rest ha hmax hocc hmarc hdata hs
  have hoccupancy : Does s.cfg (State.beginArbiter (.rxOcc maxLen) s.cfg.aRxbytes) occLog
      (State.arbiterDone (.rxOcc maxLen) o) := .arbiter hocc
  have hradio : Does s.cfg (State.arbiterDone (.rxOcc maxLen) o) marcLog
      (State.receiveBody maxLen (occupancy s.cfg o) m) :=
    .of_eq (f := State.beginArbiter (.rxMarc maxLen (occupancy s.cfg o)) s.cfg.aMarcstate) (fun _ hc => hc ▸ rfl)
      (.arbiter hmarc)
  exact issue_served ha hs (by simp) (State.ensure_of (decide_eq_true hmax))
    (((hoccupancy.trans hradio).trans (.receiveBody hdata)).trans (.rearm s.cfg result st0 st1 st2))

/-! ### `TRANSMIT_FIFO` -/

theorem underflowed_iff {c : Cfg} {v : Byte} : underflowed c v = true ↔ v &&& c.txunfBit ≠ 0 := by simp [underflowed]

/-- The underflow flag read, the FIFO is flushed if it is set; the idle strobe before the load follows (41_driver R138). -/
theorem Does.flush (c : Cfg) (b : List Byte) (t st1 st2 : Byte) : Does c (State.arbiterDone (.txUnf b) t)
    (if t &&& c.txunfBit ≠ 0 then [strobed c.sIdle st1, strobed c.sFlushTx st2] else [])
    (State.beginStrobe (.txIdle b) c.sIdle) := by
  split
  · next hset =>
    have hidle : Does c (State.arbiterDone (.txUnf b) t) [strobed c.sIdle st1]
        (State.beginStrobe (.txFlush b) c.sFlushTx) :=
      .of_eq (f := State.beginStrobe (.txUnfIdle b) c.sIdle) (fun s hc => by
        rw [State.arbiterDone, hc, if_pos (underflowed_iff.mpr hset)]) (.strobe fun s hc => by rw [← hc]; rfl)
    exact hidle.trans (.strobe fun s hc => by rw [← hc]; rfl)
  · next hclear =>
    exact .nil fun s hc => by rw [State.arbiterDone, hc, if_neg (mt underflowed_iff.mp hclear)]

theorem Does.stream {c : Cfg} {b : List Byte} {idx : Nat} {log : List Exchanged} (hc : 6 ≤ c.fifoSize)
    (hlog : StreamLog c b idx 0 log) : Does c (fun s => s.streamLoop b idx) log (State.beginDrain 0) :=
  fun s l rest he hs => (State.takeAll_stream hc hlog s l rest he hs).2 rfl

theorem Does.drain {c : Cfg} {log : List Exchanged} (hlog : DrainLog c 0 log) :
    Does c (State.beginDrain 0) log (State.finish .done) :=
  fun s l rest he hs => State.takeAll_drain hlog s l rest he hs

/-- Settles O19: the procedure's parts in their order, each served. -/
theorem transmitFifoCompletes : Obligations.TransmitFifoCompletes := by
  unfold Obligations.TransmitFifoCompletes
  intro s b t st0 st1 st2 st3 st5 st4 flagLog streamLog drainLog rest ha hv h1 hw hflag hst4 hstream hdrain flushLog log hs
  have hidle : Does s.cfg (State.beginStrobe (.txFirstIdle b) s.cfg.sIdle) [strobed s.cfg.sIdle st0]
      (State.beginArbiter (.txUnf b) s.cfg.aTxbytes) := .strobe fun _ hc => hc ▸ rfl
  have hreidle : Does s.cfg (State.beginStrobe (.txIdle b) s.cfg.sIdle) [strobed s.cfg.sIdle st3]
      (State.beginTxn (.txLoad b (min b.length s.cfg.chunk))
        ((0x40 ||| s.cfg.aFifo.setWidth 8) :: b.take (s.cfg.fifoSize - 3))) := .strobe fun _ hc => by
    rw [State.resume, hc, wrbBytes_eq, min_comm, ← List.take_take, List.take_length]
    rfl
  have hload : Does s.cfg (State.beginTxn (.txLoad b (min b.length s.cfg.chunk))
      ((0x40 ||| s.cfg.aFifo.setWidth 8) :: b.take (s.cfg.fifoSize - 3)))
      [((0x40 ||| s.cfg.aFifo.setWidth 8) :: b.take (s.cfg.fifoSize - 3), st4)]
      (State.beginStrobe (.txStart b (min b.length s.cfg.chunk)) s.cfg.sTx) :=
    .txn (by simp [hst4, min_comm]) (List.ne_nil_of_length_pos (by omega)) fun _ hc => hc ▸ rfl
  have hstart : Does s.cfg (State.beginStrobe (.txStart b (min b.length s.cfg.chunk)) s.cfg.sTx)
      [strobed s.cfg.sTx st5] (fun t => t.streamLoop b (min b.length s.cfg.chunk)) := .strobe fun _ _ => rfl
  exact issue_served ha hs (by simp [log]) (State.ensure_of (by simp [h1, hw]))
    (((((((hidle.trans (.arbiter hflag)).trans (.flush s.cfg b t st1 st2)).trans hreidle).trans hload).trans hstart).trans
      (.stream (Cfg.facts hv).fifo hstream)).trans (.drain hdrain))

/-! ### Polling loops that give up (60_exceptions R263) -/

/-- A poll that has counted `POLL_LIMIT` attempts gives up. -/
theorem State.pollGuard_of_limit {s : State} {l : Nat} (hl : s.cfg.pollLimit = some l) (go : Nat → State → State) :
    s.pollGuard l go = s.raise .deviceUnresponsive := by
  simp [State.pollGuard, passesLimit, hl]

/-- A read that differs from its predecessor after `POLL_LIMIT` disagreements is the arbiter's last. -/
theorem State.resume_arbNext_gaveUp {s : State} {use : ArbUse} {a : Addr} {p v : Byte} {l : Nat} {inn : List Byte}
    (hl : s.cfg.pollLimit = some l) (hv : inn.getD 1 0 = v) (hne : v ≠ p) :
    s.resume (.arbNext use a p l) inn = s.raise .deviceUnresponsive := by
  rw [State.resume, hv, if_neg hne, State.pollGuard_of_limit hl]

/-- The arbiter after a first read of `p`, with `n` disagreements counted, when the reads that follow each differ from the
one before and the last of them is one too many. -/
theorem State.takeAll_arbNext_gaveUp {use : ArbUse} {a : Addr} {k : Nat} (reads : List (Byte × Byte)) :
    ∀ (s : State) (p : Byte) (n : Nat) (l rest : List BusSample), s.cfg.pollLimit = some k → n ≤ k →
      n + reads.length = k + 1 → (p :: reads.map Prod.snd).IsChain (· ≠ ·) →
      ServedAll s.cfg ((reads.map (statRead a)).map Prod.snd) l rest →
      State.takeAll l (s.beginStat (.arbNext use a p n) a) =
        State.takeAll rest ((State.didAll (reads.map (statRead a)) s).raise .deviceUnresponsive) := by
  induction reads with
  | nil => intro s p n l rest _ hn hlen; simp at hlen; omega
  | cons r reads ih =>
    intro s p n l rest hk hn hlen hchain hs
    obtain ⟨mid, h1, h2⟩ := hs
    rw [List.map_cons, List.isChain_cons_cons] at hchain
    obtain ⟨hne, hchain⟩ := hchain
    rw [show s.beginStat (.arbNext use a p n) a = s.beginTxn (.arbNext use a p n) (statRead a r).1 from rfl,
      State.takeAll_txn (statRead a r) h1 rfl (List.cons_ne_nil _ _)]
    rw [List.length_cons] at hlen
    cases reads with
    | nil =>
      obtain rfl : n = k := by simpa using hlen
      obtain rfl : mid = rest := h2
      exact congrArg _ (State.resume_arbNext_gaveUp (s := s.didTxn (statRead a r)) hk rfl hne.symm)
    | cons r' reads =>
      rw [List.length_cons] at hlen
      have hn' : n + 1 ≤ k := by omega
      rw [State.resume_arbNext_again (s := s.didTxn (statRead a r)) hne ((withinLimit_iff hk).mpr hn')]
      exact ih (s.didTxn (statRead a r)) r.2 (n + 1) mid rest hk hn' (by simp; omega) hchain h2

/-- The arbiter when every read differs from the one before, one more of them than `POLL_LIMIT` allows. -/
theorem State.takeAll_arbiter_gaveUp {s : State} {use : ArbUse} {a : Addr} {reads : List (Byte × Byte)} {k : Nat}
    {l rest : List BusSample} (hk : s.cfg.pollLimit = some k) (hlen : reads.length = k + 2)
    (hchain : (reads.map Prod.snd).IsChain (· ≠ ·)) (hs : ServedAll s.cfg ((reads.map (statRead a)).map Prod.snd) l rest) :
    State.takeAll l (s.beginArbiter use a) =
      State.takeAll rest ((State.didAll (reads.map (statRead a)) s).raise .deviceUnresponsive) := by
  cases reads with
  | nil => simp at hlen
  | cons r reads =>
    obtain ⟨mid, h1, h2⟩ := hs
    rw [show s.beginArbiter use a = s.beginTxn (.arbFirst use a) (statRead a r).1 from rfl,
      State.takeAll_txn (statRead a r) h1 rfl (List.cons_ne_nil _ _)]
    exact State.takeAll_arbNext_gaveUp reads (s.didTxn (statRead a r)) r.2 0 mid rest hk (Nat.zero_le k)
      (by simp at hlen; omega) hchain h2

/-- The last byte arrives: the transaction ends and the procedure goes on (40_bus R114). -/
theorem State.takeSample_of_last {s : State} {pos : Pos} {txn : Txn} {a : BusSample} {inn : List Byte}
    (hq : s.seq = some ⟨pos, txn⟩) (hr : txn.ready = true) (ha : a.fail = false) (hinn : txn.got ++ [a.data] = inn)
    (hlen : txn.bytesOut.length = inn.length) : s.takeSample a = (s.endTxn txn.bytesOut inn).resume pos inn := by
  subst hinn
  simp [State.takeSample, hq, hr, ha, hlen]

/-- Settles O14: the arbiter's reads one by one; for a transaction in flight its last byte, after which the loop of its
position gives up. -/
theorem pollLoopsGiveUpAtTheLimit : Obligations.PollLoopsGiveUpAtTheLimit := by
  unfold Obligations.PollLoopsGiveUpAtTheLimit
  refine ⟨fun s addr reads l rest ha h h' hsync hl hlen hchain hs => ?_,
    fun s pos txn x rest l st v hco hq hi hl hr hx hgot hlen hpos => ?_⟩
  · have hne : reads.map (statRead (addr.setWidth 6)) ≠ [] := by
      rw [Ne, List.map_eq_nil_iff, ← List.length_eq_zero_iff]
      omega
    have hs : ServedAll s.cfg ((reads.map (statRead (addr.setWidth 6))).map Prod.snd) s.inbox rest := by
      rw [List.map_map]
      exact hs
    have hbody := (readReg_status_body (s := s.accept) h h').trans (if_pos hsync)
    rw [exec, execReadReg, issue_of_accepting ha, if_pos rfl, hbody, ← State.takeAll_didAll_raise hne ha.2]
    exact congrArg _ (State.takeAll_arbiter_gaveUp (s := s.accept) hl hlen hchain hs)
  · obtain ⟨-, -, hf, -⟩ := hco.inFlight hq
    have hgiveUp : (s.endTxn txn.bytesOut [st, v]).resume pos [st, v] =
        (s.endTxn txn.bytesOut [st, v]).raise .deviceUnresponsive := by
      split at hpos
      · next b idx attempts a r0 r1 =>
        obtain ⟨rfl, hocc⟩ := hpos
        exact (if_pos hocc).trans (State.pollGuard_of_limit (s := s.endTxn _ _) hl _)
      · next use a vPrev attempts =>
        obtain ⟨rfl, hne⟩ | ⟨rfl, rfl, hdrain⟩ := hpos
        · exact State.resume_arbNext_gaveUp hl rfl hne
        · have hd : ¬ drained (s.endTxn txn.bytesOut [st, v]).cfg v = true := mt (drained_iff _ v).mp hdrain
          have hagreed : (s.endTxn txn.bytesOut [st, v]).resume (.arbNext (.txDrain l) a v attempts) [st, v] =
              (s.endTxn txn.bytesOut [st, v]).drainRead l v := if_pos rfl
          rw [hagreed, State.drainRead, if_neg hd]
          exact State.pollGuard_of_limit (s := s.endTxn _ _) hl _
      · exact hpos.elim
    rw [State.step_inFlight hco hq hi, State.takeSample_of_last hq hr hx hgot hlen, hgiveUp, State.takeAll_of_idle rfl]
    simp [State.raise, State.endTxn, State.emit, State.deselect, hf]

/-! ### Requests outside the table -/

/-- A request that passes the length requirements and that the table of 30_encoding R82 does not list. -/
def UnlistedAccess (c : Cfg) : Instr → Prop
  | .strobe code => ¬ (0x30 ≤ code.toNat ∧ code.toNat ≤ 0x3D)
  | .writeReg a _ => ¬ WritableAddr c a.toNat
  | .writeBurst a v => v.length ≤ c.burstMax ∧ ¬ BurstAddr c a.toNat v.length
  | .readReg a kind => if kind then ¬ (0x30 ≤ a.toNat ∧ a.toNat ≤ 0x3D) else ¬ a.toNat ≤ 0x2E
  | .readMed3 a => ¬ (0x30 ≤ a.toNat ∧ a.toNat ≤ 0x3D)
  | .readBurst a n => n ≤ c.burstMax ∧ ¬ BurstAddr c a.toNat n
  | .hdrStrobe a => ¬ (0x30 ≤ a.toNat ∧ a.toNat ≤ 0x3D)
  | .hdrWrs a _ => ¬ WritableAddr c a.toNat
  | .hdrWrb a v => v.length ≤ c.burstMax ∧ ¬ BurstAddr c a.toNat v.length
  | .hdrRds a => ¬ a.toNat ≤ 0x2E
  | .hdrRdstat a => ¬ (0x30 ≤ a.toNat ∧ a.toNat ≤ 0x3D)
  | .hdrRdb a n => n ≤ c.burstMax ∧ ¬ BurstAddr c a.toNat n
  | _ => False

/-- A burst within `BURST_MAX` at an illegal start fails the second check. -/
theorem State.ensure_burst_not {s : State} {a n : Nat} {go : State → State} (hn : n ≤ s.cfg.burstMax)
    (h : ¬ BurstAddr s.cfg a n) :
    (s.ensure (n ≤ s.cfg.burstMax) .illegalOperand fun s => s.ensure (legalBurst s.cfg a n) .illegalAccess go) =
      s.raise .illegalAccess := by
  rw [State.ensure_of (decide_eq_true hn), State.ensure_of_not (mt legalBurst_iff.mp h)]

/-- The multiplexer refuses an unlisted request before anything is sent (41_driver R131). -/
theorem exec_of_unlisted {s : State} {i : Instr} (ha : s.accepting) (hc : s.csn = false) (h : UnlistedAccess s.cfg i) :
    exec i s = .next (s.faultedAfter [] s.inbox .illegalAccess) := by
  cases i with
  | strobe | readMed3 | hdrStrobe | hdrRdstat =>
    exact issue_of_raise ha hc (State.ensure_of_not (mt inStatRange_iff.mp h))
  | writeReg | hdrWrs => exact issue_of_raise ha hc (State.ensure_of_not (mt legalWrite_iff.mp h))
  | writeBurst | readBurst | hdrWrb | hdrRdb => exact issue_of_raise ha hc (State.ensure_burst_not h.1 h.2)
  | readReg a kind =>
    cases kind
    · exact issue_of_raise ha hc (State.ensure_of_not fun hr => h (of_decide_eq_true hr))
    · exact issue_of_raise ha hc (State.ensure_of_not (mt inStatRange_iff.mp h))
  | hdrRds => exact issue_of_raise ha hc (State.ensure_of_not fun hr => h (of_decide_eq_true hr))
  | _ => exact h.elim

/-- In a block that exists neither the FIFO nor the power table lies at 0x2F (20_memory R54). -/
theorem not_streamAddr_2F {c : Cfg} (hv : c.valid = true) : 0x2F ≠ c.aFifo.toNat ∧ 0x2F ≠ c.aPatable.toNat := by
  have hstream := ((Cfg.valid_iff c).mp hv).streamAddresses
  exact ⟨(hstream c.aFifo (by simp)).2.2.symm, (hstream c.aPatable (by simp)).2.2.symm⟩

theorem not_burstAddr_2F {c : Cfg} (hv : c.valid = true) (n : Nat) : ¬ BurstAddr c 0x2F n := by
  have := not_streamAddr_2F hv
  rintro (h | h | h) <;> omega

theorem not_writableAddr_2F {c : Cfg} (hv : c.valid = true) : ¬ WritableAddr c 0x2F := by
  have := not_streamAddr_2F hv
  rintro (h | h | h) <;> omega

/-- Settles O22: a request outside the table is refused, and in a valid block each at 0x2F is outside. -/
theorem illegalAccessIsRefused : Obligations.IllegalAccessIsRefused := by
  unfold Obligations.IllegalAccessIsRefused
  refine ⟨fun s i ha hc hv h => exec_of_unlisted ha hc ?_, fun s i ha hc h => exec_of_unlisted ha hc ?_⟩
  · cases i with
    | strobe | readMed3 | hdrStrobe | hdrRdstat | hdrRds =>
      cases h
      simp [UnlistedAccess]
    | writeReg | hdrWrs =>
      cases h
      exact not_writableAddr_2F hv
    | writeBurst | readBurst | hdrWrb | hdrRdb =>
      obtain ⟨rfl, hlen⟩ := h
      exact ⟨hlen, not_burstAddr_2F hv _⟩
    | readReg a kind =>
      cases h
      cases kind <;> simp [UnlistedAccess]
    | _ => exact h.elim
  · cases i <;> exact h

/-! ### `TRANSMIT_FIFO` sends what its position says -/

theorem TxSound.of_idle {s : State} (h : s.seq = none) : TxSound s := by simp [TxSound, h]

theorem TxSound.raise (s : State) (code : FaultCode) : TxSound (s.raise code) := .of_idle rfl

theorem TxSound.finish (s : State) (r : OpResult) : TxSound (s.finish r) := .of_idle rfl

theorem TxSound.of_seq {s : State} {q : Seq} (hq : s.seq = some q) (h : q.pos.txSound s.cfg q.txn.bytesOut) :
    TxSound s := by
  rintro _ hq'
  cases hq.symm.trans hq'
  exact h

theorem TxSound.beginTxn {s : State} {pos : Pos} {out : List Byte} (h : pos.txSound s.cfg out) :
    TxSound (s.beginTxn pos out) := .of_seq rfl h

theorem TxSound.pollGuard {s : State} {n : Nat} {go : Nat → State → State} (h : TxSound (go (n + 1) s)) :
    TxSound (s.pollGuard n go) := by
  unfold State.pollGuard
  split
  · exact .raise s _
  · exact h

theorem TxSound.arbFirst (s : State) (use : ArbUse) (a : Addr) : TxSound (s.beginArbiter use a) :=
  .beginTxn (by cases use <;> simp [Pos.txSound])

theorem TxSound.arbNext (s : State) (use : ArbUse) (a : Addr) (v : Byte) (n : Nat) :
    TxSound (s.beginStat (.arbNext use a v n) a) := .beginTxn (by cases use <;> simp [Pos.txSound])

theorem TxSound.receiveBody (m o : Nat) (v : Byte) (s : State) : TxSound (s.receiveBody m o v) := by
  unfold State.receiveBody
  dsimp only
  split
  · exact .beginTxn trivial
  · split <;> exact .beginTxn trivial

theorem TxSound.streamLoop (b : List Byte) (idx : Nat) (s : State) : TxSound (s.streamLoop b idx) := by
  unfold State.streamLoop
  split
  · next hlt => exact .beginTxn ⟨rfl, hlt⟩
  · exact .arbFirst s _ _

theorem TxSound.arbiterDone (use : ArbUse) (v : Byte) (s : State) : TxSound (s.arbiterDone use v) := by
  cases use with
  | readReg => exact .finish s _
  | rxOcc m => exact .arbFirst s _ _
  | rxMarc m o => exact .receiveBody m o v s
  | txUnf b =>
    refine .beginTxn ?_
    split <;> rfl
  | txDrain n =>
    unfold State.arbiterDone State.drainRead
    dsimp only
    split
    · exact .finish s _
    · exact .pollGuard (.arbFirst s _ _)

/-- The room the occupancy wait leaves is not empty, so that a refill has a byte to write (41_driver R138). -/
theorem TxSound.occupancyRead {s : State} {b : List Byte} {idx n : Nat} {v : Byte} (hc : 6 ≤ s.cfg.fifoSize)
    (hlt : idx < b.length) : TxSound (s.occupancyRead b idx n v) := by
  have hchunk : 3 ≤ s.cfg.chunk := by simp only [Cfg.chunk, fifoHeadroom]; omega
  unfold State.occupancyRead
  dsimp only
  split
  · exact .pollGuard (.beginTxn ⟨rfl, hlt⟩)
  · exact .beginTxn ⟨rfl, by omega, by omega⟩

/-- A procedure that goes on sends what its next position says. -/
theorem State.resume_txSound {s : State} {pos : Pos} {out : List Byte} (hc : 6 ≤ s.cfg.fifoSize)
    (h : pos.txSound s.cfg out) (inn : List Byte) : TxSound (s.resume pos inn) := by
  cases pos <;> simp only [State.resume]
  case strobe | write | readOne | readMany | rxRestart => exact .finish s _
  case chipReset => exact .finish (s.pause _) _
  case arbFirst use a => exact .arbNext s use a _ _
  case arbNext use a vPrev n =>
    split
    · exact .arbiterDone use _ s
    · exact .pollGuard (.arbNext s use a _ _)
  case med0 use a | med1 use a r0 =>
    cases use with
    | readMed3 => exact .beginTxn trivial
    | txOcc b idx n => exact .beginTxn ⟨rfl, h.2⟩
  case med2 use a r0 r1 =>
    cases use with
    | readMed3 => exact .finish s _
    | txOcc b idx n => exact .occupancyRead hc h.2
  case rxData | rxIdle | rxFlush => exact .beginTxn trivial
  case txFirstIdle => exact .arbFirst s _ _
  case txUnfIdle | txFlush | txIdle | txLoad => exact .beginTxn rfl
  case txStart => exact .streamLoop _ _ s
  case txByte b idx len i =>
    obtain ⟨-, -, hlen⟩ := h
    split
    · next hi => exact .beginTxn ⟨rfl, hi, hlen⟩
    · exact .streamLoop _ _ s

theorem State.Takes.txSound {s t : State} {q : Seq} {a : BusSample} (h : s.Takes q a t) (hc : 6 ≤ s.cfg.fifoSize)
    (hs : q.pos.txSound s.cfg q.txn.bytesOut) : TxSound t := by
  cases h with
  | notReady | ready | byte => exact .of_seq rfl hs
  | gaveUp => exact .raise s _
  | failed => exact .raise (s.emit _) _
  | last => exact State.resume_txSound (s := s.endTxn _ _) hc hs _

/-- `TxSound` in a block with room in its FIFO, as taking an answer keeps it. -/
def TxReady (s : State) : Prop := 6 ≤ s.cfg.fifoSize ∧ TxSound s

theorem TxReady.takeSample {s : State} (h : TxReady s) (a : BusSample) : TxReady (s.takeSample a) := by
  obtain ⟨hc, hs⟩ := h
  refine ⟨by rwa [(s.takeSample_keeps a).cfg], ?_⟩
  cases hq : s.seq with
  | none => simpa [State.takeSample, hq] using hs
  | some q => exact (State.takeSample_takes hq a).txSound hc (hs q hq)

theorem TxReady.takeAll {s : State} (h : TxReady s) (l : List BusSample) : TxReady (State.takeAll l s) :=
  State.takeAll_induct (P := TxReady) (fun _ _ h => h) (fun _ a h => h.takeSample a) l s h

theorem TxReady.chipMove {s : State} (h : TxReady s) : TxReady s.chipMove := by
  unfold State.chipMove
  split
  · exact TxReady.takeAll (s := { s with drawn := s.drawn + 1 }) h _
  · exact h.takeAll _

theorem TxSound.ensure {c : Bool} {code : FaultCode} {go : State → State} {s : State} (h : TxSound (go s)) :
    TxSound (s.ensure c code go) := by
  cases c
  · exact .raise s code
  · exact h

theorem TxSound.ite {p : Prop} [Decidable p] {s t : State} (hs : TxSound s) (ht : TxSound t) :
    TxSound (if p then s else t) := by
  split
  · exact hs
  · exact ht

/-- Every instruction is issued with a body that sends what its first position says. -/
theorem exec_txSound_body (i : Instr) : ∃ body : State → State, (∀ s, exec i s = issue s body) ∧ ∀ s, TxSound (body s) := by
  cases i <;> refine ⟨_, fun s => by unfold exec; rfl, fun s => ?_⟩
  case reset => exact .beginTxn trivial
  case cfgId => exact .finish { s with ident := _ } _
  case declen => exact .finish s _
  case statusDecode | buildPayload =>
    split
    · exact .finish s _
    · exact .raise s _
  case encode | decode | csumGen | csumChk | chkCmp | findCmd | parse => exact .ensure (.finish s _)
  case buildFrame => exact .ensure (.ensure (.finish s _))
  case strobe | writeReg | readMed3 | hdrStrobe | hdrWrs | hdrRds | hdrRdstat => exact .ensure (.beginTxn trivial)
  case receiveFifo => exact .ensure (.arbFirst s _ _)
  case transmitFifo => exact .ensure (.beginTxn rfl)
  case readReg addr kind =>
    cases kind
    · exact .ensure (.beginTxn trivial)
    · exact .ensure (go := fun s => if inSyncSet s.cfg (field6 addr) then _ else _)
        (.ite (.arbFirst s _ _) (.beginTxn trivial))
  case writeBurst | readBurst | hdrWrb | hdrRdb => exact .ensure (.ensure (.ite (.finish s _) (.beginTxn trivial)))

/-- Issuing sends what the position says, if the body does and keeps the configuration. -/
theorem TxSound.issue {s t : State} {body : State → State} (hc : 6 ≤ s.cfg.fifoSize) (hs : TxSound s)
    (hbody : TxSound (body s.accept)) (hcfg : t.cfg = s.cfg) (h : issue s body = .next t) : TxSound t := by
  obtain ⟨-, ⟨-, rfl⟩ | ⟨-, rfl⟩⟩ := issue_next_cases h
  · have hcb : (body s.accept).cfg = s.cfg := (State.settle_keeps _).cfg.symm.trans hcfg
    have hr : TxReady (body s.accept) := ⟨by rwa [hcb], hbody⟩
    exact (hr.takeAll _).2
  · exact hs

/-- What the host changes is no part of the transaction in flight. -/
theorem State.HostSide.txReady {s t : State} (h : s.HostSide t) (hs : TxReady s) : TxReady t := by
  obtain ⟨ctr, mode, task, pending, sessionResult, gap, -, rfl⟩ := h
  exact hs

/-- A move between operations keeps that the transaction in flight is the one of its position. -/
theorem State.PortMove.txSound {s t : State} {o : Host.Outcome State Fault Refusal} (h : s.PortMove o) (hs : TxReady s)
    (ho : o = .next t) : TxSound t := by
  cases h with
  | run i hside =>
    obtain ⟨body, hx, hbody⟩ := exec_txSound_body i
    obtain ⟨hc, hs⟩ := hside.txReady hs
    exact hs.issue hc (hbody _) (exec_keeps ho).rest.cfg ((hx _).symm.trans ho)
  | illegal code _ hside =>
    obtain ⟨hc, hs⟩ := hside.txReady hs
    exact hs.issue hc (.raise _ code) (issue_keeps (State.raise_keeps code _) ho).cfg ho
  | host hside =>
    cases ho
    exact (hside.txReady hs).2
  | blockReset hside =>
    cases ho
    exact .of_idle rfl
  | refused r => cases ho

/-! ### `TRANSMIT_FIFO` owes the bytes it has not written -/

/-- The data bytes a bracket carries to the FIFO. -/
def fifoData (c : Cfg) : List Byte → List Byte
  | [] => []
  | h :: data => if hdrRw h = false ∧ hdrAddr h = c.aFifo then data else []

@[simp] theorem fifoData_strobeBytes (c : Cfg) (a : Addr) : fifoData c (strobeBytes a) = [] := by
  simp [fifoData, strobeBytes]

@[simp] theorem fifoData_rdstatBytes (c : Cfg) (a : Addr) : fifoData c (rdstatBytes a) = [] := by
  simp [fifoData, rdstatBytes, header_fields]

@[simp] theorem fifoData_wrsBytes (c : Cfg) (v : Byte) : fifoData c (wrsBytes c.aFifo v) = [v] := by
  simp [fifoData, wrsBytes, header_fields]

@[simp] theorem fifoData_wrbBytes (c : Cfg) (v : List Byte) : fifoData c (wrbBytes c.aFifo v) = v := by
  simp [fifoData, wrbBytes, header_fields]

/-- A transaction that ends adds the data it carried to the bytes written to the FIFO. -/
theorem fifoWritten_after (c : Cfg) (s : State) (out inn : List Byte) :
    fifoWritten c (s.endTxn out inn).trace = fifoWritten c s.trace ++ fifoData c out := by
  cases out with
  | nil => simp [fifoWritten, fifoData]
  | cons h data => exact fifoWritten_endTxn c s h data inn

/-- A transaction in flight is one of `TRANSMIT_FIFO` that has `left` still to write; with none in flight and no fault
stored nothing is left. -/
def State.Owes (s : State) (left : List Byte) : Prop :=
  (∀ q, s.seq = some q → q.pos.toWrite = some left) ∧ (s.seq = none → s.fault = .none → left = [])

theorem State.Owes.finish (s : State) (r : OpResult) : (s.finish r).Owes [] := ⟨by simp, fun _ _ => rfl⟩

/-- After a fault is raised one is stored. -/
theorem State.raise_fault_ne_none (s : State) {code : FaultCode} (hcode : code ≠ .none) :
    (s.raise code).fault ≠ .none := by
  rw [State.raise_fault]
  split
  · exact hcode
  · assumption

theorem State.Owes.raise (s : State) {code : FaultCode} (hcode : code ≠ .none) (left : List Byte) :
    (s.raise code).Owes left :=
  ⟨by simp, fun _ hf => absurd hf (s.raise_fault_ne_none hcode)⟩

theorem State.Owes.of_seq {s : State} {q : Seq} {left : List Byte} (hq : s.seq = some q) (h : q.pos.toWrite = some left) :
    s.Owes left := by
  refine ⟨?_, fun hn => by simp [hn] at hq⟩
  rintro _ hq'
  cases hq.symm.trans hq'
  exact h

theorem State.Owes.pollGuard {s : State} {n : Nat} {go : Nat → State → State} {left : List Byte}
    (h : (go (n + 1) s).Owes left) : (s.pollGuard n go).Owes left := by
  unfold State.pollGuard
  split
  · exact .raise s (by decide) left
  · exact h

theorem State.streamLoop_owes (b : List Byte) (idx : Nat) (s : State) : (s.streamLoop b idx).Owes (b.drop idx) := by
  unfold State.streamLoop
  split
  · exact .of_seq rfl rfl
  · next hge => exact .of_seq rfl (by simp [Pos.toWrite, Nat.not_lt.mp hge])

theorem State.drainRead_owes (n : Nat) (v : Byte) (s : State) : (s.drainRead n v).Owes [] := by
  unfold State.drainRead
  split
  · exact .finish s _
  · exact .pollGuard (.of_seq rfl rfl)

theorem State.occupancyRead_owes (b : List Byte) (idx n : Nat) (v : Byte) (s : State) :
    (s.occupancyRead b idx n v).Owes (b.drop idx) := by
  unfold State.occupancyRead
  dsimp only
  split
  · exact .pollGuard (.of_seq rfl rfl)
  · exact .of_seq rfl rfl

/-- A transaction of `TRANSMIT_FIFO` carries the first of the bytes its position has to write, and the procedure goes on
with the others. -/
theorem State.resume_owes {s : State} {pos : Pos} {out left : List Byte} (hw : pos.toWrite = some left)
    (hs : pos.txSound s.cfg out) (inn : List Byte) :
    ∃ later, left = fifoData s.cfg out ++ later ∧ (s.resume pos inn).Owes later := by
  cases pos <;> simp only [State.resume]
  case strobe | write | readOne | readMany | chipReset | rxData | rxIdle | rxFlush | rxRestart => cases hw
  case arbFirst use a =>
    cases use with
    | txUnf | txDrain =>
      obtain rfl : out = rdstatBytes a := hs
      exact ⟨left, by simp, .of_seq rfl hw⟩
    | _ => cases hw
  case arbNext use a vPrev n =>
    cases use with
    | txUnf b =>
      obtain rfl : out = rdstatBytes a := hs
      refine ⟨left, by simp, ?_⟩
      split
      · refine .of_seq rfl ?_
        split <;> exact hw
      · exact .pollGuard (.of_seq rfl hw)
    | txDrain k =>
      obtain rfl : out = rdstatBytes a := hs
      cases hw
      refine ⟨[], by simp, ?_⟩
      split
      · exact s.drainRead_owes _ _
      · exact .pollGuard (.of_seq rfl rfl)
    | _ => cases hw
  case med0 use a | med1 use a r0 =>
    cases use with
    | readMed3 => cases hw
    | txOcc b idx n =>
      obtain ⟨rfl, -⟩ := hs
      exact ⟨left, by simp, .of_seq rfl hw⟩
  case med2 use a r0 r1 =>
    cases use with
    | readMed3 => cases hw
    | txOcc b idx n =>
      obtain ⟨rfl, -⟩ := hs
      cases hw
      exact ⟨b.drop idx, by simp, s.occupancyRead_owes b idx n _⟩
  case txFirstIdle b | txUnfIdle b | txFlush b | txIdle b =>
    cases hs
    exact ⟨left, by simp, .of_seq rfl hw⟩
  case txLoad b len =>
    cases hs
    obtain rfl : b = left := Option.some.inj hw
    exact ⟨b.drop len, by simp, .of_seq rfl rfl⟩
  case txStart b idx =>
    cases hs
    cases hw
    exact ⟨b.drop idx, by simp, s.streamLoop_owes b idx⟩
  case txByte b idx len i =>
    obtain ⟨rfl, hi, hlen⟩ := hs
    cases hw
    have hlt : idx + i < b.length := by omega
    refine ⟨b.drop (idx + (i + 1)), by simp [List.drop_eq_getElem_cons hlt, hlt, Nat.add_assoc], ?_⟩
    split
    · exact .of_seq rfl rfl
    · obtain rfl : len = i + 1 := by omega
      exact s.streamLoop_owes b _

/-- A procedure that goes on sends nothing by itself. -/
theorem State.Goes.fifoWritten {s t : State} {ok : Prop} (h : s.Goes ok t) (c : Cfg) :
    fifoWritten c t.trace = fifoWritten c s.trace := by
  cases h with
  | finish | settled | begin => rfl
  | raise =>
    rw [State.raise_trace]
    split <;> rfl

/-- A procedure that goes on is busy exactly while a transaction is in flight. -/
theorem State.Goes.busy {s t : State} {ok : Prop} (h : s.Goes ok t) (hb : s.busy = true) : t.busy = t.seq.isSome := by
  cases h with
  | finish | settled | raise => rfl
  | begin => exact hb

/-- `TRANSMIT_FIFO` under way towards `target`: what is written to the FIFO and what it owes make up `target`. -/
def Transmits (target : List Byte) (s : State) : Prop :=
  TxReady s ∧ s.busy = s.seq.isSome
  ∧ ∃ left, s.Owes left ∧ (s.fault = .none → fifoWritten s.cfg s.trace ++ left = target)

theorem Transmits.takeSample {target : List Byte} {s : State} (h : Transmits target s) (a : BusSample) :
    Transmits target (s.takeSample a) := by
  cases hq : s.seq with
  | none => simpa [State.takeSample, hq] using h
  | some q =>
    have hkeeps := s.takeSample_keeps a
    have htakes := State.takeSample_takes hq a
    obtain ⟨hready, hbusy, left, howes, htarget⟩ := h
    have hsound := hready.2 q hq
    replace hready := hready.takeSample a
    have hb : s.busy = true := by simp [hbusy, hq]
    have hw := howes.1 q hq
    generalize s.takeSample a = t at hkeeps htakes hready
    refine ⟨hready, ?_⟩
    cases htakes with
    | notReady | ready | byte => exact ⟨hb, left, .of_seq rfl hw, htarget⟩
    | gaveUp => exact ⟨rfl, left, .raise s (by decide) left, fun hf => absurd hf (s.raise_fault_ne_none (by decide))⟩
    | failed =>
      exact ⟨rfl, left, .raise (s.emit _) (by decide) left,
        fun hf => absurd hf ((s.emit _).raise_fault_ne_none (by decide))⟩
    | last =>
      obtain ⟨later, rfl, hlater⟩ := State.resume_owes (s := s.endTxn q.txn.bytesOut (q.txn.got ++ [a.data])) hw
        hsound (q.txn.got ++ [a.data])
      have hgoes := State.goes_resume q.pos (q.txn.got ++ [a.data]) (s.endTxn q.txn.bytesOut (q.txn.got ++ [a.data]))
      refine ⟨hgoes.busy hb, later, hlater, fun hf => ?_⟩
      have hfault : s.fault = .none := by
        by_contra hne
        exact hne ((hkeeps.fault hne).symm.trans hf)
      rw [hkeeps.cfg, hgoes.fifoWritten, fifoWritten_after, List.append_assoc]
      exact htarget hfault

theorem Transmits.takeAll {target : List Byte} {s : State} (h : Transmits target s) (l : List BusSample) :
    Transmits target (State.takeAll l s) :=
  State.takeAll_induct (P := Transmits target) (fun _ _ h => h) (fun _ a h => h.takeSample a) l s h

theorem Transmits.chipMove {target : List Byte} {s : State} (h : Transmits target s) : Transmits target s.chipMove := by
  unfold State.chipMove
  split
  · exact Transmits.takeAll (s := { s with drawn := s.drawn + 1 }) h _
  · exact h.takeAll _

/-- Without a fault, what is written and what the position still has to write make up the target. -/
theorem Transmits.written_toWrite {target : List Byte} {s : State} (h : Transmits target s) (hf : s.fault = .none) :
    fifoWritten s.cfg s.trace ++ s.toWrite = target := by
  obtain ⟨-, -, left, ⟨hin, hout⟩, htarget⟩ := h
  have hleft : s.toWrite = left := by
    cases hq : s.seq with
    | none => simp [State.toWrite, hq, hout hq hf]
    | some q => simp [State.toWrite, hq, hin q hq]
  rw [hleft, htarget hf]

theorem State.toWrite_of_idle {s : State} (h : s.seq = none) : s.toWrite = [] := by simp [State.toWrite, h]

/-- `TRANSMIT_FIFO`, just issued, has its whole operand to write. -/
theorem Transmits.begin {s : State} (b : List Byte) (hc : 6 ≤ s.cfg.fifoSize) :
    Transmits (fifoWritten s.cfg s.trace ++ b) (s.accept.beginStrobe (.txFirstIdle b) s.cfg.sIdle) :=
  ⟨⟨hc, .beginTxn rfl⟩, rfl, b, .of_seq rfl rfl, fun _ => rfl⟩

/-- Settles O20: written and owed bytes make up one target, which issuing sets and every answer taken keeps. -/
theorem transmitWritesEveryByteInOrder : Obligations.TransmitWritesEveryByteInOrder := by
  unfold Obligations.TransmitWritesEveryByteInOrder
  have room {c : Cfg} (hv : c.valid = true) : 6 ≤ c.fifoSize := (Cfg.facts hv).fifo
  refine ⟨fun s t b ha hv h1 hw hx hf => ?_, fun s t q left hco hs hq hleft hx hf => ?_, fun s t hco hs hx => ?_,
    fun c s hx => ?_⟩
  · have ht : Transmits (fifoWritten s.cfg s.trace ++ b) t := by
      rw [exec, execTransmitFifo, issue_of_accepting ha, State.ensure_of (by simp [h1, hw])] at hx
      cases hx
      exact (Transmits.begin b (room hv)).takeAll s.inbox
    have hwritten := ht.written_toWrite hf
    rw [(exec_keeps hx).rest.cfg] at hwritten
    refine ⟨hwritten, fun hb => ?_⟩
    obtain ⟨-, hbusy, -⟩ := ht
    have hdone : t.toWrite = [] := State.toWrite_of_idle (by simpa [hb] using hbusy)
    exact ⟨hdone, by rwa [hdone, List.append_nil] at hwritten⟩
  · obtain ⟨hb, -, hfault, -⟩ := hco.inFlight hq
    cases step_of_busy hb hx
    have hs : Transmits (fifoWritten s.cfg s.trace ++ left) s :=
      ⟨⟨room hco.valid, hs⟩, hco.busy, left, .of_seq hq hleft, fun _ => rfl⟩
    exact hs.chipMove.written_toWrite hf
  · have hr : TxReady s := ⟨room hco.valid, hs⟩
    cases hb : s.busy with
    | true =>
      cases step_of_busy hb hx
      exact hr.chipMove.2
    | false => exact s.portMove_cases.txSound hr (step_of_idle hb hx)
  · unfold State.construct at hx
    split at hx
    · cases hx
      exact .of_idle rfl
    · cases hx

end Sys2Proof.Machine
end

section
/-! PROOFS of the statements about the encoder (42_codec): its machine writes the closed form bit by bit, the number of
bytes it leaves, and the balance of each of them. -/

namespace Sys2Proof.Machine

/-! ### Lengths and the closed form -/

/-- `E(N)`, spelled out (30_encoding R92). -/
theorem encodedLen_eq (n : Nat) :
    encodedLen n = if n = 0 then 0 else if n % 2 = 0 then 5 * n / 2 else (5 * n + 1) / 2 := by
  unfold encodedLen
  split_ifs <;> omega

section
variable {sel0 : Fin 8} {p : List Byte}

/-- Data bit `q` stands at `2 q + 2 floor(q / 4)`, its complement behind it (42_codec R168). -/
theorem encodedBit_data {q : Nat} {x : Byte} (hx : p[q / 8]? = some x) {v : Nat} (hv : v < 2) :
    encodedBit sel0 p (2 * q + 2 * (q / 4) + v) = (bit x ((sel0.val + q) % 8) ^^ (v == 1)) := by
  obtain ⟨hlt, -⟩ := List.getElem?_eq_some_iff.mp hx
  have hq : 4 * ((2 * q + 2 * (q / 4) + v) / 10) + (2 * q + 2 * (q / 4) + v) % 10 / 2 = q := by omega
  have hslot : (2 * q + 2 * (q / 4) + v) % 10 < 8 ∧ q < 8 * p.length := by omega
  have hparity : (2 * q + 2 * (q / 4) + v) % 2 = v := by omega
  simp only [encodedBit, hq, if_pos hslot, hparity, List.getD_eq_getElem?_getD, hx, Option.getD_some, Nat.add_mod_mod]

/-- Between two groups of data pairs, and behind the last data pair, the stream alternates (42_codec R168). -/
theorem encodedBit_alternates {k : Nat} (h : 8 ≤ k % 10 ∨ 20 * p.length ≤ k + 2) :
    encodedBit sel0 p k = (k % 2 == 0) :=
  if_neg (by omega)

/-- The stream consists of balanced pairs (42_codec R167 b). -/
theorem encodedBit_complement {k : Nat} (h : k % 2 = 0) : encodedBit sel0 p (k + 1) = !encodedBit sel0 p k := by
  have hten : (k + 1) / 10 = k / 10 := by omega
  have hpair : (k + 1) % 10 / 2 = k % 10 / 2 := by omega
  have hslot : (k + 1) % 10 < 8 ↔ k % 10 < 8 := by omega
  have hodd : (k + 1) % 2 = 1 := by omega
  simp only [encodedBit, hten, hpair, hslot, hodd, h]
  split <;> simp

/-- The closed form, its condition and its byte index read off the stream index alone. -/
theorem encodedBit_eq (k : Nat) : encodedBit sel0 p k =
    if k % 10 < 8 ∧ k < 20 * p.length - 2 then
      bit (p.getD (k / 20) 0) ((sel0.val + (4 * (k / 10) + k % 10 / 2) % 8) % 8) ^^ decide (k % 2 = 1)
    else decide (k % 2 = 0) := by
  unfold encodedBit
  refine if_ctx_congr (by omega) (fun ⟨hslot, _⟩ => ?_) fun _ => rfl
  have hbyte : (4 * (k / 10) + k % 10 / 2) / 8 = k / 20 := by omega
  rw [hbyte]
  rfl

end

/-! ### Bits of a byte string -/

/-- Bit `k` of a byte string, the most significant bit of each byte first (20_memory R56). -/
def wireBit (w : List Byte) (k : Nat) : Bool := bit (w.getD (k / 8) 0) (7 - k % 8)

theorem wireBit_append {w : List Byte} {k : Nat} (h : k < 8 * w.length) (v : List Byte) :
    wireBit (w ++ v) k = wireBit w k := by
  simp only [wireBit, List.getD_append w v 0 (k / 8) (by omega)]

theorem wireBit_of_length_le {w : List Byte} {k : Nat} (h : 8 * w.length ≤ k) : wireBit w k = false := by
  rw [wireBit, List.getD_eq_default w 0 (by omega)]
  exact BitVec.getLsbD_zero

/-- The bits of one byte of the string. -/
theorem wireBit_getElem {w : List Byte} {n : Nat} (hn : n < w.length) {j : Nat} (hj : j < 8) :
    wireBit w (8 * n + j) = bit w[n] (7 - j) := by
  have hbyte : (8 * n + j) / 8 = n := by omega
  have hplace : (8 * n + j) % 8 = j := by omega
  rw [wireBit, hbyte, hplace, List.getD_eq_getElem _ _ hn]

theorem wireBit_last (w : List Byte) (a : Byte) {j : Nat} (hj : j < 8) :
    wireBit (w ++ [a]) (8 * w.length + j) = bit a (7 - j) := by
  simpa using wireBit_getElem (w := w ++ [a]) (n := w.length) (by simp) hj

/-- A byte not yet begun adds no bit. -/
theorem wireBit_append_zero (w : List Byte) (k : Nat) : wireBit (w ++ [0]) k = wireBit w k := by
  by_cases h : k < 8 * w.length
  · exact wireBit_append h _
  · rw [wireBit_of_length_le (w := w) (by omega), wireBit, List.getD_append_right _ _ _ _ (by omega)]
    cases k / 8 - w.length <;> exact BitVec.getLsbD_zero

theorem bit_orBit (x : Byte) (v : Bool) {j : Nat} (h : j < 8) (i : Nat) :
    bit (orBit x v j) i = (bit x i || (v && decide (i = j))) := by
  cases v with
  | false => simp [orBit]
  | true =>
    have hone : (1#8 <<< j).getLsbD i = decide (i = j) := by
      rw [← BitVec.twoPow_eq, BitVec.getLsbD_twoPow, decide_eq_true h, Bool.true_and]
      exact decide_eq_decide.mpr eq_comm
    simp [orBit, bit, hone]

/-- Setting a bit of the last byte sets that bit of the string. -/
theorem wireBit_append_orBit (w : List Byte) (a : Byte) (v : Bool) {n : Nat} (h : n < 8) (k : Nat) :
    wireBit (w ++ [orBit a v (7 - n)]) k = (wireBit (w ++ [a]) k || (v && decide (k = 8 * w.length + n))) := by
  obtain hk | ⟨i, hi, rfl⟩ | hk : k < 8 * w.length ∨ (∃ i < 8, k = 8 * w.length + i) ∨ 8 * (w.length + 1) ≤ k := by
    obtain hlo | hhi := Nat.lt_or_ge k (8 * w.length)
    · exact .inl hlo
    · exact .inr ((Nat.lt_or_ge k (8 * (w.length + 1))).imp_left fun _ => ⟨k - 8 * w.length, by omega, by omega⟩)
  · simp [wireBit_append hk, show k ≠ 8 * w.length + n by omega]
  · have hplace : 7 - i = 7 - n ↔ i = n := by omega
    rw [wireBit_last _ _ hi, wireBit_last _ _ hi, bit_orBit _ _ (by omega)]
    simp [hplace]
  · rw [wireBit_of_length_le (by simpa), wireBit_of_length_le (by simpa), decide_eq_false (by omega), Bool.and_false,
      Bool.or_false]

/-! ### The machine writes the closed form -/

/-- The machine `e` has written the first `t` bits of the stream `f`; its accumulator holds the last of them. -/
structure Encoder.Writes (f : Nat → Bool) (t : Nat) (e : Encoder) : Prop where
  count : 8 * e.out.length + e.eNbit = t
  fits  : e.eNbit < 8
  bits  : ∀ k, wireBit (e.out ++ [e.eAcc]) k = (decide (k < t) && f k)

@[simp] theorem Encoder.append_eSel (v : Bool) (e : Encoder) : (e.append v).eSel = e.eSel := by
  unfold Encoder.append
  split_ifs <;> rfl

@[simp] theorem Encoder.append_ePat (v : Bool) (e : Encoder) : (e.append v).ePat = e.ePat := by
  unfold Encoder.append
  split_ifs <;> rfl

/-- Appending the stream's next bit (42_codec R164). -/
theorem Encoder.Writes.append {f : Nat → Bool} {t : Nat} {e : Encoder} (h : e.Writes f t) {v : Bool} (hv : f t = v) :
    (e.append v).Writes f (t + 1) := by
  obtain ⟨hcount, hfits, hbits⟩ := h
  have hnew (k : Nat) : wireBit (e.out ++ [orBit e.eAcc v (7 - e.eNbit)]) k = (decide (k < t + 1) && f k) := by
    rw [wireBit_append_orBit _ _ _ hfits, hbits, hcount]
    obtain hk | rfl | hk := Nat.lt_trichotomy k t
    · simp [hk, hk.ne, hk.le]
    · simp [hv]
    · simp [hk.not_gt, hk.ne', hk.not_ge]
  change ∀ k, wireBit (e.out ++ [if v then e.eAcc ||| (1#8 <<< (7 - e.eNbit)) else e.eAcc]) k = _ at hnew
  unfold Encoder.append
  dsimp only
  generalize (if v then e.eAcc ||| (1#8 <<< (7 - e.eNbit)) else e.eAcc) = acc at hnew ⊢
  split
  · refine ⟨?_, Nat.zero_lt_succ 7, fun k => (wireBit_append_zero _ k).trans (hnew k)⟩
    simp only [List.length_append, List.length_singleton]
    omega
  · exact ⟨by dsimp only; omega, by dsimp only; omega, hnew⟩

/-- A marker pair, where the stream alternates (42_codec R163, R165). -/
theorem Encoder.Writes.marker {f : Nat → Bool} {t : Nat} {e : Encoder} (h : e.Writes f t) (heven : t % 2 = 0)
    (hf : ∀ k, t ≤ k → k < t + 2 → f k = (k % 2 == 0)) : e.marker.Writes f (t + 2) := by
  have hone : f t = true := by simp [hf t, heven]
  have hzero : f (t + 1) = false := by
    rw [hf (t + 1) (by omega) (by omega), beq_eq_false_iff_ne]
    omega
  exact (h.append hone).append hzero

@[simp] theorem Encoder.dataPair_eSel (x : Byte) (e : Encoder) : (e.dataPair x).eSel = (e.eSel + 1) % 8 := by
  unfold Encoder.dataPair
  dsimp only
  split <;> simp

@[simp] theorem Encoder.dataPair_ePat (x : Byte) (e : Encoder) : (e.dataPair x).ePat = e.ePat + 1 := by
  unfold Encoder.dataPair
  dsimp only
  split <;> simp

/-- A data pair, where the stream has the selected bit and its complement (42_codec R162). -/
theorem Encoder.Writes.dataPair {f : Nat → Bool} {t : Nat} {e : Encoder} (h : e.Writes f t) {x : Byte}
    (h1 : f t = bit x e.eSel) (h0 : f (t + 1) = !bit x e.eSel) : (e.dataPair x).Writes f (t + 2) := by
  obtain ⟨hcount, hfits, hbits⟩ := (h.append h1).append h0
  unfold Encoder.dataPair
  dsimp only
  split <;> exact ⟨hcount, hfits, hbits⟩

/-- Padding reaches the end of the byte, where the stream alternates from here on (42_codec R165). -/
theorem Encoder.Writes.pad {f : Nat → Bool} (n : Nat) {t : Nat} {e : Encoder} (h : e.Writes f t) (heven : t % 2 = 0)
    (hf : ∀ k, t ≤ k → f k = (k % 2 == 0)) (hn : t % 8 = 0 ∨ 8 ≤ t % 8 + 2 * n) :
    (Encoder.pad n e).Writes f (8 * ((t + 7) / 8)) := by
  induction n generalizing t e with
  | zero =>
    have hend : 8 * ((t + 7) / 8) = t := by omega
    rwa [hend]
  | succ n ih =>
    have hcount := h.count
    have hfits := h.fits
    unfold Encoder.pad
    split
    · have hend : 8 * ((t + 7) / 8) = t := by omega
      rwa [hend]
    · have hmarker := h.marker heven fun k hk _ => hf k hk
      have hend : (t + 7) / 8 = (t + 2 + 7) / 8 := by omega
      rw [hend]
      exact ih hmarker (by omega) (fun k hk => hf k (by omega)) (by omega)

/-- Byte-aligned, the machine's output is the stream so far. -/
theorem Encoder.Writes.aligned {f : Nat → Bool} {n : Nat} {e : Encoder} (h : e.Writes f (8 * n)) :
    e.out.length = n ∧ ∀ k < 8 * n, wireBit e.out k = f k := by
  obtain ⟨hcount, hfits, hbits⟩ := h
  have hlen : e.out.length = n := by omega
  refine ⟨hlen, fun k hk => ?_⟩
  rw [← wireBit_append (by omega) [e.eAcc], hbits, decide_eq_true hk, Bool.true_and]

/-- The machine after `q` data pairs of `ENCODE p`: before data pair `q` it has injected `(q - 1) / 4` markers, the one
that is due after a full group only when the next data pair follows (42_codec R163). -/
structure Encoder.After (sel0 : Fin 8) (p : List Byte) (q : Nat) (e : Encoder) : Prop where
  writes : e.Writes (encodedBit sel0 p) (2 * q + 2 * ((q - 1) / 4))
  sel    : e.eSel = (sel0.val + q) % 8
  pat    : e.ePat = q - 4 * ((q - 1) / 4)

section
variable {sel0 : Fin 8} {p : List Byte} {x : Byte}

theorem encoderStart_after (sel0 : Fin 8) (p : List Byte) : (encoderStart sel0).After sel0 p 0 :=
  ⟨⟨rfl, Nat.zero_lt_succ 7, fun k => (wireBit_append_zero [] k).trans (wireBit_of_length_le (Nat.zero_le k))⟩,
    (Nat.mod_eq_of_lt sel0.isLt).symm, rfl⟩

/-- Before data pair `q` the marker of every full group stands in the stream (42_codec R163). -/
theorem Encoder.After.inject {q : Nat} {e : Encoder} (h : e.After sel0 p q) :
    e.inject.Writes (encodedBit sel0 p) (2 * q + 2 * (q / 4)) ∧ e.inject.eSel = (sel0.val + q) % 8
      ∧ e.inject.ePat = q % 4 := by
  obtain ⟨hwrites, hsel, hpat⟩ := h
  unfold Encoder.inject
  split_ifs with hdue
  · rw [hpat, markPeriod] at hdue
    have hplace : 2 * q + 2 * (q / 4) = 2 * q + 2 * ((q - 1) / 4) + 2 := by omega
    have hmarker := hwrites.marker (by omega) fun k _ _ => encodedBit_alternates (by omega)
    rw [← hplace] at hmarker
    exact ⟨⟨hmarker.count, hmarker.fits, hmarker.bits⟩, by simpa [Encoder.marker] using hsel, by dsimp only; omega⟩
  · rw [hpat, markPeriod] at hdue
    have hplace : (q - 1) / 4 = q / 4 := by omega
    exact ⟨hplace ▸ hwrites, hsel, by omega⟩

/-- One selector step writes data bit `q` and its complement (42_codec R160, R162). -/
theorem Encoder.After.step {q : Nat} {e : Encoder} (h : e.After sel0 p q) (hx : p[q / 8]? = some x) :
    (e.step x).After sel0 p (q + 1) := by
  obtain ⟨hwrites, hsel, hpat⟩ := h.inject
  have hplace : 2 * (q + 1) + 2 * ((q + 1 - 1) / 4) = 2 * q + 2 * (q / 4) + 2 := by omega
  have hpair := hwrites.dataPair (x := x) (by simpa [hsel] using encodedBit_data (sel0 := sel0) hx Nat.zero_lt_two)
    (by simpa [hsel] using encodedBit_data (sel0 := sel0) hx Nat.one_lt_two)
  unfold Encoder.step
  exact ⟨hplace ▸ hpair, by simp [hsel, Nat.add_assoc], by rw [Encoder.dataPair_ePat, hpat]; omega⟩

/-- The selector steps of input byte `n`, from its data bit `i` on. -/
theorem Encoder.After.steps {n : Nat} (hx : p[n]? = some x) (k : Nat) {i : Nat} {e : Encoder} (hk : i + k ≤ 8)
    (h : e.After sel0 p (8 * n + i)) : (Encoder.steps x k e).After sel0 p (8 * n + (i + k)) := by
  induction k generalizing i e with
  | zero => exact h
  | succ k ih =>
    have hbyte : (8 * n + i) / 8 = n := by omega
    have hnext := ih (i := i + 1) (by omega) (h.step (hbyte ▸ hx))
    rwa [Nat.add_assoc, Nat.add_comm 1 k] at hnext

/-- The input bytes `xs` that follow `before`. -/
theorem Encoder.After.bytes (xs : List Byte) {before : List Byte} {e : Encoder} (hp : p = before ++ xs)
    (h : e.After sel0 p (8 * before.length)) : (e.bytes xs).After sel0 p (8 * p.length) := by
  induction xs generalizing before e with
  | nil => simpa [hp, Encoder.bytes] using h
  | cons x xs ih =>
    have hx : p[before.length]? = some x := by simp [hp]
    have hbyte := Encoder.After.steps hx 8 (i := 0) (Nat.le_refl 8) h
    exact ih (before := before ++ [x]) (by simpa using hp) (by simpa [Nat.mul_add] using hbyte)

end

/-- What `ENCODE` returns: `E(N)` bytes, whose bits are the closed form (42_codec R166, R168). -/
theorem encodeWire_writes (sel0 : Fin 8) (p : List Byte) : (encodeWire sel0 p).length = encodedLen p.length
    ∧ ∀ k < 8 * encodedLen p.length, wireBit (encodeWire sel0 p) k = encodedBit sel0 p k := by
  have hdata : (Encoder.bytes p (encoderStart sel0)).After sel0 p (8 * p.length) :=
    (encoderStart_after sel0 p).bytes p (before := []) rfl
  have hend : (2 * (8 * p.length) + 2 * ((8 * p.length - 1) / 4) + 7) / 8 = encodedLen p.length := by
    rw [encodedLen_eq]
    split_ifs <;> omega
  have hpadded := hdata.writes.pad 4 (by omega) (fun k hk => encodedBit_alternates (by omega)) (by omega)
  rw [hend] at hpadded
  exact hpadded.aligned

theorem encodeWire_length (sel0 : Fin 8) (p : List Byte) : (encodeWire sel0 p).length = encodedLen p.length :=
  (encodeWire_writes sel0 p).1

theorem wireBit_encodeWire {sel0 : Fin 8} {p : List Byte} {k : Nat} (h : k < 8 * encodedLen p.length) :
    wireBit (encodeWire sel0 p) k = encodedBit sel0 p k :=
  (encodeWire_writes sel0 p).2 k h

/-! ### The statements -/

/-- Settles O29: both capacity conditions hold, and the machine's byte count is `E(N)`. -/
theorem encodeCompletes : Obligations.EncodeCompletes := by
  unfold Obligations.EncodeCompletes
  refine ⟨encodedLen_eq, fun s p ha hmax => ?_⟩
  have hlen := encodeWire_length s.cfg.sel0 p
  rw [← encodedLen_eq, ← hlen]
  intro _ hwire
  have hok : encodable s.accept.cfg p = true := by simp [encodable, hmax, hlen.ge.trans hwire]
  refine ⟨?_, rfl⟩
  rw [exec, execEncode]
  exact issue_answered ha (State.ensure_of hok)

/-- Settles O30: the machine writes the closed form, which is read off the index of the bit. -/
theorem encoderMeetsClosedForm : Obligations.EncoderMeetsClosedForm := by
  unfold Obligations.EncoderMeetsClosedForm
  exact fun sel0 p k h => (wireBit_encodeWire h).trans (encodedBit_eq k)

/-- A byte of four pairs of a bit and its complement has four 1 bits (42_codec R167 b). -/
theorem count_ones_of_pairs : ∀ w : Byte, (∀ i < 4, bit w (2 * i) = !bit w (2 * i + 1)) →
    ((List.range 8).filter fun i => bit w i).length = 4 := by decide

/-- Settles O31: a pair of the stream never straddles two bytes, and its second bit is the first one's complement. -/
theorem everyWireByteIsBalanced : Obligations.EveryWireByteIsBalanced := by
  unfold Obligations.EveryWireByteIsBalanced
  intro sel0 p w hw
  obtain ⟨n, hn, rfl⟩ := List.mem_iff_getElem.mp hw
  refine count_ones_of_pairs _ fun i hi => ?_
  have hlen := encodeWire_length sel0 p
  have hbit {j : Nat} (hj : j < 8) : encodedBit sel0 p (8 * n + j) = bit (encodeWire sel0 p)[n] (7 - j) :=
    (wireBit_encodeWire (by omega)).symm.trans (wireBit_getElem hn hj)
  have hpair := encodedBit_complement (sel0 := sel0) (p := p) (k := 8 * n + (6 - 2 * i)) (by omega)
  have hsecond : 7 - (6 - 2 * i + 1) = 2 * i := by omega
  have hfirst : 7 - (6 - 2 * i) = 2 * i + 1 := by omega
  rwa [Nat.add_assoc, hbit (by omega), hbit (by omega), hsecond, hfirst] at hpair

end Sys2Proof.Machine
end

section
/-! PROOFS of the statements about the decoder (43_codec): its machine packs the closed form bit by bit into as many data
and check bytes as `DECLEN` says, and it undoes the encoder. -/

namespace Sys2Proof.Machine

/-! ### Lengths -/

/-- `K(L)`, spelled out (43_codec R184). -/
theorem declen_eq (l : Nat) :
    declen l = if l < 2 then 0 else 2 * ((l - 2) / 5) + if 3 ≤ (l - 2) % 5 then 1 else 0 := rfl

/-- `K(RX_SKIP + E(N)) = N` (30_encoding R92). -/
theorem declen_encodedLen (n : Nat) : declen (2 + encodedLen n) = n := by
  rw [declen_eq, encodedLen_eq]
  split_ifs <;> omega

theorem declen_mono {l m : Nat} (h : l ≤ m) : declen l ≤ declen m := by
  rw [declen_eq, declen_eq]
  split_ifs <;> omega

/-! ### Bits of a result byte -/

section
variable {sel0 : Fin 8}

/-- Every bit of a byte is reached from the phase on. -/
theorem byte_eq_of_bits {b c : Byte}
    (h : ∀ t < 8, bit b ((sel0.val + t) % 8) = bit c ((sel0.val + t) % 8)) : b = c := by
  refine BitVec.eq_of_getLsbD_eq fun i hi => ?_
  have hplace : (sel0.val + (i + 8 - sel0.val) % 8) % 8 = i := by omega
  simpa [bit, hplace] using h ((i + 8 - sel0.val) % 8) (by omega)

/-- A result begins with `p` when its bytes have the bits of `p`. -/
theorem take_eq_of_bits {l p : List Byte} (hlen : p.length ≤ l.length)
    (h : ∀ n t, n < p.length → t < 8 →
      bit (l.getD n 0) ((sel0.val + t) % 8) = bit (p.getD n 0) ((sel0.val + t) % 8)) : l.take p.length = p := by
  refine List.ext_getElem (by simpa using hlen) fun n _ hn => byte_eq_of_bits (sel0 := sel0) fun t ht => ?_
  have hbit := h n t hn ht
  rw [List.getD_eq_getElem _ _ hn, List.getD_eq_getElem _ _ (by omega)] at hbit
  rwa [List.getElem_take]

theorem bit_not (b : Byte) {i : Nat} (hi : i < 8) : bit (~~~b) i = !bit b i := by simp [bit, hi]

/-- Result byte `n` when the first `q` values of `f` are packed: those that fall into it, from the phase on, and all of
them inverted once the byte is complete if `inv` says so (43_codec R183). -/
def Packed (sel0 : Fin 8) (f : Nat → Bool) (inv : Bool) (q n : Nat) (b : Byte) : Prop :=
  ∀ t < 8, bit b ((sel0.val + t) % 8) = ((decide (8 * n + t < q) && f (8 * n + t)) ^^ (inv && decide (8 * n + 8 ≤ q)))

variable {f : Nat → Bool} {inv : Bool} {q n : Nat} {b : Byte}

theorem packed_zero : Packed sel0 f inv 0 n 0 := fun _ _ => by simp [bit]

/-- A value leaves every byte but its own as it is. -/
theorem Packed.other (h : Packed sel0 f inv q n b) (hn : q / 8 ≠ n) : Packed sel0 f inv (q + 1) n b := by
  intro t ht
  have hreached : 8 * n + t < q + 1 ↔ 8 * n + t < q := by omega
  have hcomplete : 8 * n + 8 ≤ q + 1 ↔ 8 * n + 8 ≤ q := by omega
  simpa only [hreached, hcomplete] using h t ht

/-- A value packed into its byte, before any inversion. -/
theorem Packed.bit_put (h : Packed sel0 f inv q (q / 8) b) {t : Nat} (ht : t < 8) :
    bit (orBit b (f q) ((sel0.val + q) % 8)) ((sel0.val + t) % 8) =
      (decide (8 * (q / 8) + t < q + 1) && f (8 * (q / 8) + t)) := by
  have hopen : ¬ 8 * (q / 8) + 8 ≤ q := by omega
  have hplace : (sel0.val + t) % 8 = (sel0.val + q) % 8 ↔ 8 * (q / 8) + t = q := by omega
  rw [bit_orBit _ _ (Nat.mod_lt _ (by decide)), h t ht]
  obtain hlt | heq | hgt := Nat.lt_trichotomy (8 * (q / 8) + t) q
  · simp [hopen, hplace, hlt, hlt.ne, hlt.le]
  · simp [hopen, hplace, heq]
  · simp [hopen, hplace, hgt.not_gt, hgt.ne', hgt.not_ge]

/-- A value packed into a byte that is not inverted by it. -/
theorem Packed.put (h : Packed sel0 f inv q (q / 8) b) (hq : inv = true → q % 8 ≠ 7) :
    Packed sel0 f inv (q + 1) (q / 8) (orBit b (f q) ((sel0.val + q) % 8)) := by
  intro t ht
  have hplain : (inv && decide (8 * (q / 8) + 8 ≤ q + 1)) = false := by
    rw [Bool.and_eq_false_imp]
    intro hinv
    have hopen := hq hinv
    exact decide_eq_false (by omega)
  rw [h.bit_put ht, hplain, Bool.xor_false]

/-- The last value of a byte that is inverted on completion. -/
theorem Packed.not_put (h : Packed sel0 f true q (q / 8) b) (hq : q % 8 = 7) :
    Packed sel0 f true (q + 1) (q / 8) (~~~orBit b (f q) ((sel0.val + q) % 8)) := by
  intro t ht
  have hcomplete : 8 * (q / 8) + 8 ≤ q + 1 := by omega
  rw [bit_not _ (Nat.mod_lt _ (by decide)), h.bit_put ht]
  simp [hcomplete]

/-! ### A row of result bytes -/

/-- The row `l` of `cap` result bytes, with byte `i` and place `j` next, when `q` values of `f` have been given to it;
those beyond its capacity are dropped. -/
structure Packs (sel0 : Fin 8) (f : Nat → Bool) (inv : Bool) (cap q : Nat) (l : List Byte) (i j : Nat) : Prop where
  length : l.length = cap
  index  : i = min (q / 8) cap
  place  : i < cap → j = (sel0.val + q) % 8
  bytes  : ∀ n b, l[n]? = some b → Packed sel0 f inv q n b

variable {cap i j : Nat} {l : List Byte}

theorem packs_start : Packs sel0 f inv cap 0 (List.replicate cap 0) 0 sel0.val := by
  refine ⟨List.length_replicate, by simp, fun _ => by omega, fun n b hb => ?_⟩
  obtain rfl : 0 = b := (List.eq_of_mem_replicate (List.mem_of_getElem? hb)).symm
  exact packed_zero

/-- A full row drops the value. -/
theorem Packs.full (h : Packs sel0 f inv cap q l i j) (hi : ¬ i < cap) : Packs sel0 f inv cap (q + 1) l i j := by
  obtain ⟨hlen, hindex, -, hbytes⟩ := h
  refine ⟨hlen, by omega, fun hlt => absurd hlt hi, fun n b hb => (hbytes n b hb).other ?_⟩
  have hn := (List.getElem?_eq_some_iff.mp hb).1
  omega

/-- A row with room changes the byte the value falls into. -/
theorem Packs.modify (h : Packs sel0 f inv cap q l i j) (hi : i < cap) {op : Byte → Byte} {i' : Nat}
    (hi' : i' = (q + 1) / 8) (hop : ∀ b, Packed sel0 f inv q (q / 8) b → Packed sel0 f inv (q + 1) (q / 8) (op b)) :
    Packs sel0 f inv cap (q + 1) (l.modify i op) i' ((j + 1) % 8) := by
  obtain ⟨hlen, hindex, hplace, hbytes⟩ := h
  have hrow : i = q / 8 := by omega
  have hnext := hplace hi
  refine ⟨by rwa [List.length_modify], by omega, fun _ => by omega, fun n b hb => ?_⟩
  rw [List.getElem?_modify, Option.map_eq_map] at hb
  obtain ⟨old, hold, rfl⟩ := Option.map_eq_some_iff.mp hb
  have hpacked := hbytes n old hold
  split
  case isTrue heq =>
    obtain rfl : q / 8 = n := by omega
    exact hop old hpacked
  case isFalse hne => exact hpacked.other (by omega)

/-- A result bit when every byte of the row is complete. -/
theorem Packs.bit_of_complete (h : Packs sel0 f inv cap q l i j) (hq : 8 * cap ≤ q) (hn : n < cap) {t : Nat}
    (ht : t < 8) : bit (l.getD n 0) ((sel0.val + t) % 8) = (f (8 * n + t) ^^ inv) := by
  have hlt : n < l.length := h.length ▸ hn
  have hreached : 8 * n + t < q := by omega
  have hcomplete : 8 * n + 8 ≤ q := by omega
  rw [List.getD_eq_getElem _ _ hlt, h.bytes n _ (List.getElem?_eq_getElem hlt) t ht]
  simp [hreached, hcomplete]

/-! ### Packing one bit -/

/-- The next place is the phase again exactly when the byte is complete. -/
theorem place_wraps_iff : ((sel0.val + q) % 8 + 1) % 8 = sel0.val ↔ q % 8 = 7 := by omega

/-- An even bit goes into the data bytes and changes nothing else (43_codec R183). -/
theorem Decoder.even_packs {e : Decoder} (h : Packs sel0 f false e.k q e.d e.dDi e.dDj) :
    ∃ d i j, e.even sel0 (f q) = { e with d := d, dDi := i, dDj := j } ∧ Packs sel0 f false e.k (q + 1) d i j := by
  unfold Decoder.even
  split
  case isFalse hfull => exact ⟨_, _, _, rfl, h.full hfull⟩
  case isTrue hroom =>
    have hindex := h.index
    have hpacked (b : Byte) (hb : Packed sel0 f false q (q / 8) b) := hb.put nofun
    rw [← h.place hroom] at hpacked
    dsimp only
    split
    case isTrue hwrap =>
      rw [h.place hroom, place_wraps_iff] at hwrap
      exact ⟨_, _, _, rfl, h.modify hroom (by omega) hpacked⟩
    case isFalse hopen =>
      rw [h.place hroom, place_wraps_iff] at hopen
      exact ⟨_, _, _, rfl, h.modify hroom (by omega) hpacked⟩

/-- An odd bit goes into the check bytes and changes nothing else (43_codec R183). -/
theorem Decoder.odd_packs {e : Decoder} (h : Packs sel0 f true e.k q e.c e.dCi e.dCj) :
    ∃ c i j, e.odd sel0 (f q) = { e with c := c, dCi := i, dCj := j } ∧ Packs sel0 f true e.k (q + 1) c i j := by
  unfold Decoder.odd
  split
  case isFalse hfull => exact ⟨_, _, _, rfl, h.full hfull⟩
  case isTrue hroom =>
    have hindex := h.index
    have hplace := h.place hroom
    dsimp only
    split
    case isTrue hwrap =>
      rw [hplace, place_wraps_iff] at hwrap
      refine ⟨_, _, _, rfl, ?_⟩
      rw [List.modify_modify_eq]
      refine h.modify hroom (by omega) fun b hb => ?_
      rw [hplace]
      exact hb.not_put hwrap
    case isFalse hopen =>
      rw [hplace, place_wraps_iff] at hopen
      refine ⟨_, _, _, rfl, h.modify hroom (by omega) fun b hb => ?_⟩
      rw [hplace]
      exact hb.put fun _ => hopen

end

/-! ### The machine packs the closed form -/

/-- How many of the first `t` stream bits stand in a slot below 8 and have parity `v` (43_codec R182). -/
def slotBits (v t : Nat) : Nat := 4 * (t / 10) + min 4 ((t % 10 + 1 - v) / 2)

theorem slotBits_succ_of_slot {v t : Nat} (hslot : t % 10 < 8) (hv : t % 2 = v) : slotBits v (t + 1) = slotBits v t + 1 := by
  unfold slotBits
  omega

theorem slotBits_succ_of_not_slot {v t : Nat} (hlt : v < 2) (hskip : t % 10 < 8 → t % 2 ≠ v) :
    slotBits v (t + 1) = slotBits v t := by
  unfold slotBits
  omega

/-- A stream bit in a slot below 8 stands where the closed form has its number (43_codec R188). -/
theorem stream_index_of_slot {v t : Nat} (hslot : t % 10 < 8) (hv : t % 2 = v) :
    2 * slotBits v t + 2 * (slotBits v t / 4) + v = t := by
  unfold slotBits
  omega

/-- The rows of the machine after the first `t` bits of the stream of `u`: the even bits packed as data, the odd ones as
check bits (43_codec R183). -/
structure Decoder.Holds (sel0 : Fin 8) (u : List Byte) (cap t : Nat) (e : Decoder) : Prop where
  room  : e.k = cap
  data  : Packs sel0 (fun q => wireBit u (2 * q + 2 * (q / 4))) false cap (slotBits 0 t) e.d e.dDi e.dDj
  check : Packs sel0 (fun q => wireBit u (2 * q + 2 * (q / 4) + 1)) true cap (slotBits 1 t) e.c e.dCi e.dCj

/-- The machine after the first `t` bits of the stream of `u`, at the slot and the place of the next (43_codec R182). -/
structure Decoder.After (sel0 : Fin 8) (u : List Byte) (cap t : Nat) (e : Decoder) : Prop where
  holds : e.Holds sel0 u cap t
  slot  : e.dSlot = t % 10
  place : e.dJ = 7 - t % 8

section
variable {sel0 : Fin 8} {u : List Byte} {cap t : Nat} {e : Decoder}

theorem decoderStart_after : (decoderStart sel0 cap).After sel0 u cap 0 :=
  ⟨⟨rfl, packs_start, packs_start⟩, rfl, rfl⟩

/-- A bit in a marker slot is dropped (43_codec R182). -/
theorem Decoder.Holds.marker (h : e.Holds sel0 u cap t) (hslot : ¬ t % 10 < 8) : e.Holds sel0 u cap (t + 1) := by
  obtain ⟨hroom, hdata, hcheck⟩ := h
  refine ⟨hroom, ?_, ?_⟩ <;> rwa [slotBits_succ_of_not_slot (by decide) fun h => absurd h hslot]

/-- An even bit of a slot below 8 is a data bit. -/
theorem Decoder.Holds.even (h : e.Holds sel0 u cap t) (hslot : t % 10 < 8) (ht : t % 2 = 0) :
    ∃ d i j, e.even sel0 (wireBit u t) = { e with d := d, dDi := i, dDj := j }
      ∧ Decoder.Holds sel0 u cap (t + 1) { e with d := d, dDi := i, dDj := j } := by
  obtain ⟨rfl, hdata, hcheck⟩ := h
  obtain ⟨d, i, j, heq, hnext⟩ := Decoder.even_packs hdata
  have hindex : 2 * slotBits 0 t + 2 * (slotBits 0 t / 4) = t := stream_index_of_slot hslot ht
  rw [hindex] at heq
  refine ⟨d, i, j, heq, rfl, ?_, ?_⟩
  · rwa [slotBits_succ_of_slot hslot ht]
  · rwa [slotBits_succ_of_not_slot (by decide) (by omega)]

/-- An odd bit of a slot below 8 is a check bit. -/
theorem Decoder.Holds.odd (h : e.Holds sel0 u cap t) (hslot : t % 10 < 8) (ht : t % 2 = 1) :
    ∃ c i j, e.odd sel0 (wireBit u t) = { e with c := c, dCi := i, dCj := j }
      ∧ Decoder.Holds sel0 u cap (t + 1) { e with c := c, dCi := i, dCj := j } := by
  obtain ⟨rfl, hdata, hcheck⟩ := h
  obtain ⟨c, i, j, heq, hnext⟩ := Decoder.odd_packs hcheck
  rw [stream_index_of_slot hslot ht] at heq
  refine ⟨c, i, j, heq, rfl, ?_, ?_⟩
  · rwa [slotBits_succ_of_not_slot (by decide) (by omega)]
  · rwa [slotBits_succ_of_slot hslot ht]

/-- Moving on to the slot and the place of the next bit (43_codec R182). -/
theorem Decoder.bit_after {v : Bool} {e' : Decoder}
    (hpack : (if 8 ≤ e.dSlot then e else if e.dSlot % 2 = 0 then e.even sel0 v else e.odd sel0 v) = e')
    (h : e'.Holds sel0 u cap (t + 1)) (hslot : e'.dSlot = t % 10) (hplace : e'.dJ = 7 - t % 8) :
    (e.bit sel0 v).After sel0 u cap (t + 1) := by
  obtain ⟨hroom, hdata, hcheck⟩ := h
  unfold Decoder.bit
  simp only [hpack]
  split
  all_goals exact ⟨⟨hroom, hdata, hcheck⟩, by dsimp only; omega, by dsimp only; omega⟩

/-- Classification and packing of the stream's next bit (43_codec R182). -/
theorem Decoder.After.step (h : e.After sel0 u cap t) : (e.bit sel0 (wireBit u t)).After sel0 u cap (t + 1) := by
  obtain ⟨hholds, hslot, hplace⟩ := h
  by_cases hmarker : 8 ≤ e.dSlot
  · exact Decoder.bit_after (if_pos hmarker) (hholds.marker (by omega)) hslot hplace
  · by_cases heven : e.dSlot % 2 = 0
    · obtain ⟨d, i, j, heq, hnext⟩ := hholds.even (by omega) (by omega)
      exact Decoder.bit_after ((if_neg hmarker).trans ((if_pos heven).trans heq)) hnext hslot hplace
    · obtain ⟨c, i, j, heq, hnext⟩ := hholds.odd (by omega) (by omega)
      exact Decoder.bit_after ((if_neg hmarker).trans ((if_neg heven).trans heq)) hnext hslot hplace

/-- The bits of wire byte `m`, from its bit `i` on. -/
theorem Decoder.After.bits {m : Nat} (hm : m < u.length) (n : Nat) {i : Nat} {e : Decoder} (hn : i + n ≤ 8)
    (h : e.After sel0 u cap (8 * m + i)) : (Decoder.bits sel0 u[m] n e).After sel0 u cap (8 * m + (i + n)) := by
  induction n generalizing i e with
  | zero => exact h
  | succ n ih =>
    have hplace : e.dJ = 7 - i := by
      rw [h.place]
      omega
    have hstep := h.step
    rw [wireBit_getElem hm (by omega), ← hplace] at hstep
    have hnext := ih (i := i + 1) (by omega) hstep
    rwa [Nat.add_assoc, Nat.add_comm 1 n] at hnext

/-- The wire bytes `ws` that follow `before`. -/
theorem Decoder.After.walk (ws : List Byte) {before : List Byte} {e : Decoder} (hu : u = before ++ ws)
    (h : e.After sel0 u cap (8 * before.length)) : (e.walk sel0 ws).After sel0 u cap (8 * u.length) := by
  induction ws generalizing before e with
  | nil => simpa [hu, Decoder.walk] using h
  | cons w ws ih =>
    have hm : before.length < u.length := by simp [hu]
    have hw : u[before.length] = w := by simp [hu]
    have hbyte := Decoder.After.bits hm 8 (i := 0) (Nat.le_refl 8) h
    rw [hw] at hbyte
    exact ih (before := before ++ [w]) (by simpa using hu) (by simpa [Nat.mul_add] using hbyte)

end

/-- What `DECODE` returns: two rows of `K(L)` bytes that hold the slot bits of the whole stream (43_codec R180). -/
theorem decodeWire_holds (sel0 : Fin 8) (w : List Byte) : ∃ e : Decoder, decodeWire sel0 w = (e.d, e.c)
    ∧ e.Holds sel0 (w.drop rxSkip) (declen w.length) (8 * (w.drop rxSkip).length) :=
  ⟨_, rfl, (Decoder.After.walk (w.drop rxSkip) (before := []) rfl decoderStart_after).holds⟩

theorem decodeWire_length (sel0 : Fin 8) (w : List Byte) :
    (decodeWire sel0 w).1.length = declen w.length ∧ (decodeWire sel0 w).2.length = declen w.length := by
  obtain ⟨e, heq, -, hdata, hcheck⟩ := decodeWire_holds sel0 w
  rw [heq]
  exact ⟨hdata.length, hcheck.length⟩

/-- The stream has bits enough for both rows. -/
theorem le_slotBits (v l : Nat) : 8 * declen l ≤ slotBits v (8 * (l - 2)) := by
  rw [declen_eq, slotBits]
  split_ifs <;> omega

/-- The closed form of `DECODE` (43_codec R188). -/
theorem bit_decodeWire {sel0 : Fin 8} {w : List Byte} {n t : Nat} (hn : n < declen w.length) (ht : t < 8) :
    bit ((decodeWire sel0 w).1.getD n 0) ((sel0.val + t) % 8) =
      wireBit (w.drop rxSkip) (2 * (8 * n + t) + 2 * ((8 * n + t) / 4))
    ∧ bit ((decodeWire sel0 w).2.getD n 0) ((sel0.val + t) % 8) =
      !wireBit (w.drop rxSkip) (2 * (8 * n + t) + 2 * ((8 * n + t) / 4) + 1) := by
  obtain ⟨e, heq, -, hdata, hcheck⟩ := decodeWire_holds sel0 w
  rw [List.length_drop] at hdata hcheck
  rw [heq, hdata.bit_of_complete (le_slotBits _ _) hn ht,
    hcheck.bit_of_complete (le_slotBits _ _) hn ht]
  exact ⟨Bool.xor_false _, Bool.xor_true _⟩

theorem streamBit_eq_wireBit (w : List Byte) (k : Nat) : streamBit w k = wireBit (w.drop rxSkip) k := by
  simp only [streamBit, wireBit, List.getD_eq_getElem?_getD, List.getElem?_drop]

/-! ### Decoding what was encoded -/

/-- Behind two skipped bytes, the stream of `ENCODE(P)` and its tail decodes to `P` first (43_codec R186). -/
theorem decodeWire_encodeWire_append (sel0 : Fin 8) (x y : Byte) (p tail : List Byte) :
    (decodeWire sel0 (x :: y :: encodeWire sel0 p ++ tail)).1.take p.length = p
    ∧ (decodeWire sel0 (x :: y :: encodeWire sel0 p ++ tail)).2.take p.length = p := by
  have hencoded := encodeWire_length sel0 p
  have hcap : p.length ≤ declen (x :: y :: encodeWire sel0 p ++ tail).length := by
    rw [← declen_encodedLen p.length]
    refine declen_mono ?_
    simp only [List.length_append, List.length_cons]
    omega
  obtain ⟨hdata, hcheck⟩ := decodeWire_length sel0 (x :: y :: encodeWire sel0 p ++ tail)
  have hstream {n t v : Nat} (hn : n < p.length) (ht : t < 8) (hv : v < 2) :
      wireBit (encodeWire sel0 p ++ tail) (2 * (8 * n + t) + 2 * ((8 * n + t) / 4) + v) =
        (bit (p.getD n 0) ((sel0.val + t) % 8) ^^ (v == 1)) := by
    have hbyte : (8 * n + t) / 8 = n := by omega
    have hplace : (sel0.val + (8 * n + t)) % 8 = (sel0.val + t) % 8 := by omega
    have hlen := encodedLen_eq p.length
    have hget : p[(8 * n + t) / 8]? = some p[n] := by simp [hbyte]
    have hwithin : 2 * (8 * n + t) + 2 * ((8 * n + t) / 4) + v < 8 * encodedLen p.length := by
      split_ifs at hlen <;> omega
    rw [wireBit_append (by omega), wireBit_encodeWire hwithin, encodedBit_data hget hv, hplace,
      List.getD_eq_getElem _ _ hn]
  refine ⟨take_eq_of_bits (sel0 := sel0) (hdata ▸ hcap) fun n t hn ht => ?_,
    take_eq_of_bits (sel0 := sel0) (hcheck ▸ hcap) fun n t hn ht => ?_⟩
  · exact (bit_decodeWire (by omega) ht).1.trans ((hstream hn ht Nat.zero_lt_two).trans (Bool.xor_false _))
  · rw [(bit_decodeWire (by omega) ht).2]
    exact (congrArg not (hstream hn ht Nat.one_lt_two)).trans (by simp)

/-! ### The statements -/

/-- Settles O32: both capacity conditions hold, and the machine's rows keep the length they start with. -/
theorem decodeCompletes : Obligations.DecodeCompletes := by
  unfold Obligations.DecodeCompletes
  intro s w ha hwire hmax
  refine ⟨?_, decodeWire_length _ _⟩
  rw [exec, execDecode]
  exact issue_answered ha (State.ensure_of (by simp [hwire, hmax]))

/-- Settles O33: `DECLEN` completes at once, and the lengths of the two directions are inverse. -/
theorem declenCompletes : Obligations.DeclenCompletes := by
  unfold Obligations.DeclenCompletes
  refine ⟨fun s l ha => ?_, declen_encodedLen⟩
  rw [exec, execDeclen, ← declen_eq]
  exact issue_answered ha rfl

/-- Settles O34: after the walk every byte of both rows is complete. -/
theorem decoderMeetsClosedForm : Obligations.DecoderMeetsClosedForm := by
  unfold Obligations.DecoderMeetsClosedForm
  intro sel0 w n t hn ht
  simp only [streamBit_eq_wireBit]
  exact bit_decodeWire hn ht

/-- Settles O35: the closed form of the decoder reads the closed form of the encoder; with nothing appended, `K` leaves
no byte behind the payload. -/
theorem codecRoundTrip : Obligations.CodecRoundTrip := by
  unfold Obligations.CodecRoundTrip
  refine fun sel0 x y p => ⟨?_, decodeWire_encodeWire_append sel0 x y p⟩
  have hcap : declen (x :: y :: encodeWire sel0 p).length = p.length := by
    rw [List.length_cons, List.length_cons, encodeWire_length, Nat.add_assoc, Nat.add_comm, declen_encodedLen]
  obtain ⟨hdata, hcheck⟩ := decodeWire_length sel0 (x :: y :: encodeWire sel0 p)
  have hround := decodeWire_encodeWire_append sel0 x y p []
  rw [List.append_nil, List.take_of_length_le (by omega), List.take_of_length_le (by omega)] at hround
  exact Prod.ext hround.1 hround.2

end Sys2Proof.Machine
end

section
/-! PROOFS of the statements about checksum, match and layout (44_codec): the checksum and what it detects, the comparison
of check bytes, the command a packet carries, and the layout of payload, frame and packet. -/

namespace Sys2Proof.Machine

/-! ### The checksum (44_codec R200 to R202) -/

theorem byteSum_eq_sum (b : List Byte) : byteSum b = (b.map BitVec.toNat).sum := by
  induction b with
  | nil => rfl
  | cons x xs ih => simp [byteSum, ih]

theorem checksum_toNat (b : List Byte) : (checksum b).toNat = (256 - (b.map BitVec.toNat).sum % 256) % 256 := by
  rw [checksum, byteSum_eq_sum, BitVec.toNat_ofNat, Nat.mod_mod_of_dvd _ (Nat.dvd_refl 256)]

/-- The last byte is compared with the checksum of those before it. -/
theorem csumOk_concat (b : List Byte) (v : Byte) :
    csumOk (b ++ [v]) = decide (v.toNat = (256 - (b.map BitVec.toNat).sum % 256) % 256) := by
  rw [csumOk, List.dropLast_concat, List.getLastD_concat, ← checksum_toNat, Bool.eq_iff_iff, beq_iff_eq, decide_eq_true_iff,
    BitVec.toNat_inj, eq_comm]

/-- A string behind which its checksum stands passes the check. -/
theorem csumOk_concat_checksum (b : List Byte) : csumOk (b ++ [checksum b]) = true := by
  rw [csumOk_concat, checksum_toNat, decide_eq_true rfl]

/-- A checksum is right exactly when the sum of all bytes, its own included, is 0 modulo 256. -/
theorem csumOk_eq (b : List Byte) : csumOk b = decide ((b.map BitVec.toNat).sum % 256 = 0) := by
  obtain rfl | ⟨front, v, rfl⟩ := b.eq_nil_or_concat'
  · rfl
  · have hv : v.toNat < 256 := v.isLt
    rw [csumOk_concat, List.map_append, List.sum_append, decide_eq_decide, List.map_singleton, List.sum_singleton]
    omega

/-! ### Slices of a byte string -/

theorem take_drop_eq_map {l : List Byte} {k n : Nat} (h : k + n ≤ l.length) :
    (l.drop k).take n = (List.range n).map fun i => l.getD (k + i) 0 := by
  refine List.ext_getElem (by simp; omega) fun i hi _ => ?_
  simp only [List.length_take, List.length_drop] at hi
  simp [show k + i < l.length by omega]

theorem getD_take_drop (l : List Byte) (k : Nat) {i n : Nat} (hi : i < n) :
    ((l.drop k).take n).getD i 0 = l.getD (k + i) 0 := by
  simp [List.getD_eq_getElem?_getD, hi]

/-- The comparison of two slices is the comparison of their bytes (44_codec R205). -/
theorem chkOk_slice_iff {d c : List Byte} {k n : Nat} (hd : k + n ≤ d.length) (hc : k + n ≤ c.length) :
    chkOk ((d.drop k).take n) ((c.drop k).take n) = true ↔ ∀ i, i < n → d.getD (k + i) 0 = c.getD (k + i) 0 := by
  rw [chkOk, beq_iff_eq, take_drop_eq_map hd, take_drop_eq_map hc, List.map_inj_left]
  simp only [List.mem_range]

/-! ### The command of a signature (44_codec R207) -/

/-- The rows of `SIG` with their commands, in code order. -/
def SigTable.rows (t : SigTable) : List (Command × Sig6) :=
  [(.join, t.join), (.leave, t.leave), (.low, t.low), (.medium, t.medium), (.high, t.high), (.timer1, t.timer1),
    (.timer2, t.timer2), (.timer3, t.timer3)]

theorem signedCommands_eq (t : SigTable) : signedCommands = (SigTable.rows t).map Prod.fst := rfl

theorem SigTable.row_of_mem {t : SigTable} {r : Command × Sig6} (h : r ∈ SigTable.rows t) :
    SigTable.row t r.1 = some r.2 := by
  simp only [SigTable.rows, List.mem_cons, List.not_mem_nil, or_false] at h
  rcases h with rfl | rfl | rfl | rfl | rfl | rfl | rfl | rfl <;> rfl

/-- The row's signature ends in the bytes `b4` and `b5`. -/
def rowEndsIn (b4 b5 : Byte) (r : Command × Sig6) : Bool := r.2.b4 == b4 && r.2.b5 == b5

theorem rowEndsIn_iff {b4 b5 : Byte} {r : Command × Sig6} : rowEndsIn b4 b5 r = true ↔ r.2.b4 = b4 ∧ r.2.b5 = b5 := by
  simp [rowEndsIn]

/-- `FIND_CMD` searches the rows. -/
theorem findCommand_eq (t : SigTable) (b4 b5 : Byte) : findCommand t b4 b5 =
    (((SigTable.rows t).find? (rowEndsIn b4 b5)).map Prod.fst).getD .unknown := by
  rw [findCommand, signedCommands_eq t, List.find?_map]
  refine congrArg (fun r : Option (Command × Sig6) => (r.map Prod.fst).getD .unknown) (List.find?_congr fun r hr => ?_)
  simp only [Function.comp, SigTable.row_of_mem hr]
  rfl

section
variable {t : SigTable} {b4 b5 : Byte} {c : Command} {sig : Sig6}

/-- The first row that ends in the two bytes is found (decision D16). -/
theorem findCommand_of_first {before behind : List (Command × Sig6)} (hrows : SigTable.rows t = before ++ (c, sig) :: behind)
    (hends : sig.b4 = b4 ∧ sig.b5 = b5) (hfirst : ∀ r ∈ before, ¬ (r.2.b4 = b4 ∧ r.2.b5 = b5)) :
    findCommand t b4 b5 = c := by
  have hfind : (SigTable.rows t).find? (rowEndsIn b4 b5) = some (c, sig) :=
    List.find?_eq_some_iff_append.mpr ⟨rowEndsIn_iff.mpr hends, before, behind, hrows, fun r hr => by
      rw [Bool.not_eq_true', ← Bool.not_eq_true, rowEndsIn_iff]
      exact hfirst r hr⟩
  rw [findCommand_eq, hfind]
  rfl

theorem findCommand_of_none (h : ∀ r ∈ SigTable.rows t, ¬ (r.2.b4 = b4 ∧ r.2.b5 = b5)) : findCommand t b4 b5 = .unknown := by
  have hfind : (SigTable.rows t).find? (rowEndsIn b4 b5) = none :=
    List.find?_eq_none.mpr fun r hr => mt rowEndsIn_iff.mp (h r hr)
  rw [findCommand_eq, hfind]
  rfl

/-- A signature that ends as no other command's does is recognised by its last two bytes (44_codec R208). -/
theorem findCommand_of_distinct (hmem : (c, sig) ∈ SigTable.rows t)
    (hdistinct : ∀ r ∈ SigTable.rows t, r.2.b4 = sig.b4 → r.2.b5 = sig.b5 → r.1 = c) :
    findCommand t sig.b4 sig.b5 = c := by
  have hfound : ((SigTable.rows t).find? (rowEndsIn sig.b4 sig.b5)).isSome = true :=
    List.find?_isSome.mpr ⟨(c, sig), hmem, rowEndsIn_iff.mpr ⟨rfl, rfl⟩⟩
  obtain ⟨r, hr⟩ := Option.isSome_iff_exists.mp hfound
  obtain ⟨h4, h5⟩ := rowEndsIn_iff.mp (List.find?_some hr)
  rw [findCommand_eq, hr]
  exact hdistinct r (List.mem_of_find?_eq_some hr) h4 h5

/-- The commands with a signature are those of the codes 0 to 7 (30_encoding R93). -/
theorem row_ofCode {cmd : BitVec 4} (h : (cmd, sig) ∈ [(0, t.join), (1, t.leave), (2, t.low), (3, t.medium), (4, t.high),
      (5, t.timer1), (6, t.timer2), (7, t.timer3)]) :
    (Command.ofCode cmd).bind (SigTable.row t) = some sig := by
  simp only [List.mem_cons, Prod.mk.injEq, List.not_mem_nil, or_false] at h
  rcases h with ⟨rfl, rfl⟩ | ⟨rfl, rfl⟩ | ⟨rfl, rfl⟩ | ⟨rfl, rfl⟩ | ⟨rfl, rfl⟩ | ⟨rfl, rfl⟩ | ⟨rfl, rfl⟩ | ⟨rfl, rfl⟩ <;> rfl

end

/-! ### The layout of a packet (44_codec R213) -/

/-- Two strings of at least `PAYLOAD_LEN` bytes give a packet. -/
theorem parsePacket_of_le (t : SigTable) {d c : List Byte} (hd : 12 ≤ d.length) (hc : 12 ≤ c.length) :
    parsePacket t d c = some {
      devType := d.getD 0 0
      devId := (d.drop 1).take 3
      counter := d.getD 4 0
      cmdBytes := (d.drop 5).take 6
      chkBytes := (c.drop 5).take 6
      command := if chkOk ((d.drop 5).take 6) ((c.drop 5).take 6) then findCommand t (d.getD 9 0) (d.getD 10 0) else .unknown
      chkOk := chkOk ((d.drop 5).take 6) ((c.drop 5).take 6)
      csumOk := csumOk (d.take 12) } := by
  have hlen : ¬ (d.length < payloadLen ∨ c.length < payloadLen) := by simp only [payloadLen]; omega
  have hcommand : resolve t ((d.drop 5).take 6) ((c.drop 5).take 6) =
      if chkOk ((d.drop 5).take 6) ((c.drop 5).take 6) then findCommand t (d.getD 9 0) (d.getD 10 0) else .unknown := by
    rw [resolve, getD_take_drop d 5 (i := 4) (by decide), getD_take_drop d 5 (i := 5) (by decide)]
  rw [parsePacket, if_neg hlen, ← hcommand]
  rfl

theorem parsePacket_of_short (t : SigTable) {d c : List Byte} (h : d.length < 12 ∨ c.length < 12) : parsePacket t d c = none :=
  if_pos h

/-! ### The layout of a frame (44_codec R211, R212) -/

theorem frame_length (c : Cfg) (p : List Byte) : (frame c p).length =
    c.preamble.length + c.syncMarker.length + encodedLen p.length + 1 + c.padCount := by
  simp [frame, encodeWire_length]
  omega

theorem encodable_iff {c : Cfg} {p : List Byte} :
    encodable c p = true ↔ p.length ≤ c.payloadMax ∧ encodedLen p.length ≤ c.wireMax := by
  simp [encodable]

/-- A frame and what follows it: the bytes before the encoded part, the encoded part, the rest. -/
theorem frame_append (c : Cfg) (p tail : List Byte) : frame c p ++ tail = (c.preamble ++ c.syncMarker) ++
    (encodeWire c.sel0 p ++ (c.terminator :: (List.replicate c.padCount c.padByte ++ tail))) := by
  simp [frame]

/-- A receiver to which all of a frame but what stands `RX_SKIP` bytes before its encoded part is delivered decodes the
payload, whatever follows (43_codec R186). -/
theorem decodeWire_frame_drop {c : Cfg} (h : 2 ≤ c.preamble.length + c.syncMarker.length) (p tail : List Byte) :
    (decodeWire c.sel0 ((frame c p ++ tail).drop (c.preamble.length + c.syncMarker.length - 2))).1.take p.length = p
    ∧ (decodeWire c.sel0 ((frame c p ++ tail).drop (c.preamble.length + c.syncMarker.length - 2))).2.take p.length = p := by
  obtain ⟨x, y, hxy⟩ : ∃ x y, (c.preamble ++ c.syncMarker).drop (c.preamble.length + c.syncMarker.length - 2) = [x, y] :=
    List.length_eq_two.mp (by simp; omega)
  rw [frame_append, List.drop_append_of_le_length (by simp), hxy]
  exact decodeWire_encodeWire_append c.sel0 x y p _

/-- Two bytes are those at the offsets 4 and 3 from the end of `head` exactly when they stand in a string that begins with
`head`, 4 bytes before its end. -/
theorem getD_end_iff {head rest : List Byte} {w0 w1 : Byte} :
    4 ≤ head.length ∧ w0 = head.getD (head.length - 4) 0 ∧ w1 = head.getD (head.length - 3) 0 ↔
      ∃ before delivered, before.length + 4 = head.length ∧ head ++ rest = before ++ w0 :: w1 :: delivered := by
  constructor
  · rintro ⟨h, rfl, rfl⟩
    refine ⟨head.take (head.length - 4), head.drop (head.length - 2) ++ rest, by simp; omega, ?_⟩
    have h0 := List.drop_eq_getElem_cons (l := head) (i := head.length - 4) (by omega)
    have h1 := List.drop_eq_getElem_cons (l := head) (i := head.length - 3) (by omega)
    rw [show head.length - 4 + 1 = head.length - 3 by omega] at h0
    rw [show head.length - 3 + 1 = head.length - 2 by omega] at h1
    rw [List.getD_eq_getElem _ _ (by omega), List.getD_eq_getElem _ _ (by omega), ← List.cons_append, ← List.cons_append,
      ← h1, ← h0, ← List.append_assoc, List.take_append_drop]
  · rintro ⟨before, delivered, hlen, heq⟩
    have hget {i : Nat} (hi : i < head.length) : head.getD i 0 = (before ++ w0 :: w1 :: delivered).getD i 0 := by
      rw [← heq, List.getD_append _ _ _ _ hi]
    refine ⟨by omega, ?_, ?_⟩
    · rw [hget (by omega), show head.length - 4 = before.length by omega]
      simp
    · rw [hget (by omega), show head.length - 3 = before.length + 1 by omega]
      simp

/-! ### The statements -/

/-- Settles O36: the two bytes before the encoded part are skipped, whether the receiver counts them or finds `SYNC_WORD`
before them. -/
theorem builtFrameDecodes : Obligations.BuiltFrameDecodes := by
  unfold Obligations.BuiltFrameDecodes
  intro c p tail
  refine ⟨fun h => ?_, ?_, fun before delivered hlen heq => ?_⟩
  · rw [← List.drop_append_of_le_length (by rw [frame_length]; omega)]
    exact decodeWire_frame_drop h p tail
  · rw [frame_append, ← List.length_append]
    exact getD_end_iff
  · have hdelivered : (frame c p ++ tail).drop (c.preamble.length + c.syncMarker.length - 2) = delivered := by
      rw [heq, show c.preamble.length + c.syncMarker.length - 2 = before.length + 2 by omega, ← List.drop_drop,
        List.drop_left]
      rfl
    exact hdelivered ▸ decodeWire_frame_drop (by omega) p tail

/-- Settles O37: both operations complete within their bounds, with the checksum read as a sum modulo 256. -/
theorem checksumCompletes : Obligations.ChecksumCompletes := by
  unfold Obligations.ChecksumCompletes
  intro s b ha
  refine ⟨fun hmax => ?_, fun hne hmax => ?_, fun v hmax => ?_, fun hc hmax => ?_, fun hc h => ?_⟩
  · rw [← byteSum_eq_sum]
    exact issue_answered ha (State.ensure_of (decide_eq_true hmax))
  · rw [← csumOk_eq]
    exact issue_answered ha (State.ensure_of (by simp [hmax, Nat.one_le_iff_ne_zero, hne]))
  · rw [← csumOk_concat]
    exact issue_answered ha (State.ensure_of (by simp [Nat.succ_le_of_lt hmax]))
  · exact issue_of_raise ha hc (State.ensure_of_not (by simp [hmax.not_ge]))
  · refine issue_of_raise ha hc (State.ensure_of_not ?_)
    rcases h with rfl | hmax
    · simp
    · simp [hmax.not_ge]

/-- Settles O38: with one byte changed the sum differs by less than 256. -/
theorem oneChangedByteFailsTheChecksum : Obligations.OneChangedByteFailsTheChecksum := by
  unfold Obligations.OneChangedByteFailsTheChecksum
  intro b i v hi hv hok
  obtain ⟨front, rest, hb, -, hset⟩ := List.exists_of_set (a' := v) hi
  have hne : v.toNat ≠ b[i].toNat := by rwa [List.getD_eq_getElem _ _ hi, ne_eq, ← BitVec.toNat_inj] at hv
  have hvlt : v.toNat < 256 := v.isLt
  have hold : b[i].toNat < 256 := b[i].isLt
  rw [hset, csumOk_eq, decide_eq_false_iff_not]
  rw [csumOk_eq, decide_eq_true_iff, hb] at hok
  simp only [List.map_append, List.map_cons, List.sum_append, List.sum_cons] at hok ⊢
  omega

/-- Settles O39: the whole operands are the slices compared. -/
theorem checkBytesCompare : Obligations.CheckBytesCompare := by
  unfold Obligations.CheckBytesCompare
  intro s d c ha
  refine ⟨fun hd hc => ⟨chkOk d c, issue_answered ha (State.ensure_of (by simp [hd, hc, cmdLen])), ?_⟩, fun hcsn h => ?_⟩
  · have hiff := chkOk_slice_iff (k := 0) (n := 6) (d := d) (c := c) (by omega) (by omega)
    rw [List.drop_zero, List.drop_zero, List.take_of_length_le hd.le, List.take_of_length_le hc.le] at hiff
    simpa only [Nat.zero_add] using hiff
  · exact issue_of_raise ha hcsn (State.ensure_of_not (by simp [cmdLen]; omega))

/-- Settles O40: `FIND_CMD` searches the rows of `SIG` in code order. -/
theorem findCommandFirstMatch : Obligations.FindCommandFirstMatch := by
  unfold Obligations.FindCommandFirstMatch
  intro s b ha hlen
  have hexec : exec (.findCmd b) s = .next (s.answered (.command (findCommand s.sig (b.getD 4 0) (b.getD 5 0)))) :=
    issue_answered ha (State.ensure_of (by simp [hlen, cmdLen]))
  refine ⟨fun before behind c sig hrows hends hfirst => ?_, fun hnone => ?_⟩
  · rw [hexec, findCommand_of_first hrows hends hfirst]
  · rw [hexec, findCommand_of_none hnone]

/-- Settles O42: the frame has the stated length, so that its two conditions are those of the operation. -/
theorem frameLayout : Obligations.FrameLayout := by
  unfold Obligations.FrameLayout
  intro s p ha
  simp only [← frame_length]
  refine ⟨fun hp he hf => ?_, fun hc h => ?_⟩
  · exact issue_answered ha ((State.ensure_of (encodable_iff.mpr ⟨hp, he⟩)).trans (State.ensure_of (decide_eq_true hf)))
  · refine issue_of_raise ha hc ?_
    by_cases henc : encodable s.cfg p = true
    · obtain ⟨hp, he⟩ := encodable_iff.mp henc
      have hf : s.cfg.wireMax < (frame s.cfg p).length := by omega
      exact (State.ensure_of henc).trans (State.ensure_of_not (by simp [hf.not_ge]))
    · exact State.ensure_of_not henc

/-- Settles O43: each field of the packet is a slice of the operands. -/
theorem parseReadsTheLayout : Obligations.ParseReadsTheLayout := by
  unfold Obligations.ParseReadsTheLayout
  intro s d c ha
  have hexec (hd : d.length ≤ s.cfg.payloadMax) (hc : c.length ≤ s.cfg.payloadMax) :
      exec (.parse d c) s = .next (s.answered (.packet (parsePacket s.sig d c))) :=
    issue_answered ha (State.ensure_of (by simp [hd, hc]))
  refine ⟨fun hcsn h => ?_, fun hd hc h => ?_, fun hd hc hd12 hc12 => ?_⟩
  · refine issue_of_raise ha hcsn (State.ensure_of_not ?_)
    rcases h with h | h <;> simp [h.not_ge]
  · rw [hexec hd hc, parsePacket_of_short s.sig h]
  · rw [hexec hd hc, parsePacket_of_le s.sig hd12 hc12]
    refine ⟨_, rfl, rfl, take_drop_eq_map (by omega), rfl,
      take_drop_eq_map (by omega), take_drop_eq_map (by omega), ?_, ?_, rfl⟩
    · rw [chkOk_slice_iff (by omega) (by omega)]
      refine ⟨fun h i h5 h10 => ?_, fun h i hi => h (5 + i) (by omega) (by omega)⟩
      simpa [Nat.add_sub_cancel' h5] using h (i - 5) (by omega)
    · rw [csumOk_eq, decide_eq_true_iff]

/-- Settles O45: the payload's own layout is read back, and its checksum and signature are recognised. -/
theorem overheardPayloadIsRecognised : Obligations.OverheardPayloadIsRecognised := by
  unfold Obligations.OverheardPayloadIsRecognised
  intro t i ctr c sig tail chkTail rows hmem hdistinct
  have hlen (l : List Byte) : 12 ≤ (payload i ctr sig ++ l).length := by simp [payload, Sig6.bytes]
  have hchk : chkOk (Sig6.bytes sig) (Sig6.bytes sig) = true := beq_self_eq_true _
  have hcsum : csumOk (payload i ctr sig) = true := csumOk_concat_checksum _
  have hcommand : findCommand t sig.b4 sig.b5 = c := findCommand_of_distinct hmem hdistinct
  rw [parsePacket_of_le t (hlen _) (hlen _)]
  change some (Packet.mk i.devType [i.dev0, i.dev1, i.dev2] ctr (Sig6.bytes sig) (Sig6.bytes sig)
    (if chkOk (Sig6.bytes sig) (Sig6.bytes sig) then findCommand t sig.b4 sig.b5 else .unknown)
    (chkOk (Sig6.bytes sig) (Sig6.bytes sig)) (csumOk (payload i ctr sig))) = _
  rw [hchk, hcsum, hcommand, if_pos rfl]

/-- Settles O41: the identity is set and the code has a row of `SIG`. -/
theorem payloadLayout : Obligations.PayloadLayout := by
  unfold Obligations.PayloadLayout
  intro s cmd ctr i sig ha hi hrow
  rw [exec, execBuildPayload]
  refine issue_answered ha ?_
  simp only [State.accept_ident, State.accept_sig, hi, row_ofCode hrow]
  rfl

/-- Settles O44: `CFG_ID` completes in the state with the new identity. -/
theorem cfgIdSetsTheIdentity : Obligations.CfgIdSetsTheIdentity := by
  unfold Obligations.CfgIdSetsTheIdentity
  intro s t i0 i1 i2 ha
  rw [exec, execCfgId, issue_of_accepting ha]
  exact congrArg Host.Outcome.next (State.settle_finish (s := { s with ident := some ⟨t, i0, i1, i2⟩ }) .done)

end Sys2Proof.Machine
end

section
/-! PROOFS of the statements about the host (45_host_session): when its counter rises, and the moves of `SEND`, `POLL` and
`enter_receive_mode` from each result to the next operation. -/

namespace Sys2Proof.Machine

/-! ### The counter -/

/-- `BUILD_PAYLOAD` of the host's `SEND` has returned, a payload or a fault. -/
def State.PayloadReturned (s : State) : Prop :=
  ∃ cmd, s.task = some (.sendPayload cmd) ∧ ((∃ p, s.result = some (.bytes p)) ∨ ∃ code, s.result = some (.faulted code))

/-- The counter after a move of the host's sequence (45_host R234). -/
def State.ctrAfterMove (s : State) : Byte :=
  match s.task, s.result with
  | some (.sendPayload _), some (.bytes _) | some (.sendPayload _), some (.faulted _) => s.ctr + 1
  | _, _ => s.ctr

theorem State.ctrAfterMove_of_payloadReturned {s : State} (h : s.PayloadReturned) : s.ctrAfterMove = s.ctr + 1 := by
  obtain ⟨cmd, ht, ⟨p, hr⟩ | ⟨code, hr⟩⟩ := h <;> simp [State.ctrAfterMove, ht, hr]

theorem State.ctrAfterMove_of_not_payloadReturned (s : State) (h : ¬ s.PayloadReturned) : s.ctrAfterMove = s.ctr := by
  unfold State.ctrAfterMove
  split
  case h_1 cmd p ht hr => exact absurd ⟨cmd, ht, .inl ⟨p, hr⟩⟩ h
  case h_2 cmd code ht hr => exact absurd ⟨cmd, ht, .inr ⟨code, hr⟩⟩ h
  case h_3 => rfl

/-- If the outcome goes on, it does so with this counter. -/
def CtrBecomes (v : Byte) (o : Host.Outcome State Fault Refusal) : Prop := ∀ t, o = .next t → t.ctr = v

theorem CtrBecomes.refused (v : Byte) (r : Refusal) : CtrBecomes v (.refused r) := fun _ h => nomatch h

theorem CtrBecomes.next {v : Byte} {s : State} (hs : s.ctr = v) : CtrBecomes v (.next s) := by
  rintro _ ⟨⟩
  exact hs

/-- No operation changes the counter. -/
theorem CtrBecomes.exec {v : Byte} {s : State} (hs : s.ctr = v) (i : Instr) : CtrBecomes v (exec i s) :=
  fun _ h => (exec_keeps h).rest.ctr.trans hs

/-- The moves that take what `BUILD_PAYLOAD` returned count. -/
theorem CtrBecomes.sessionStep_sendPayload {s : State} {cmd : BitVec 4} {r : OpResult}
    (ht : s.task = some (.sendPayload cmd)) (hr : s.result = some r) :
    CtrBecomes s.ctrAfterMove (s.sessionStep (.sendPayload cmd) r) := by
  cases r with
  | bytes p | faulted code =>
    have counted : s.ctrAfterMove = s.ctr + 1 := by simp [State.ctrAfterMove, ht, hr]
    rw [counted]
    simp only [State.sessionStep, State.exitTransmit, State.issueFor]
    exact .exec rfl _
  | _ => exact .refused _ _

/-- Every other move issues an operation, ends the sequence or is refused. -/
theorem CtrBecomes.sessionStep_of_ne {t : SessionTask} (ht : ∀ cmd, t ≠ .sendPayload cmd) (r : OpResult) (s : State) :
    CtrBecomes s.ctr (s.sessionStep t r) := by
  unfold State.sessionStep
  split
  case h_1 cmd p | h_2 cmd code => exact absurd rfl (ht cmd)
  all_goals try simp only [State.exitTransmit, State.sendEntering, State.receiveEntering, State.rxUntil,
    State.pollRearming, State.issueFor, State.endSession]
  all_goals (repeat' split)
  all_goals first
    | exact .exec rfl _
    | exact .next rfl
    | exact .refused _ _

theorem CtrBecomes.goOn (s : State) : CtrBecomes s.ctrAfterMove s.goOn := by
  unfold State.goOn State.sessionMove
  split
  case h_1 t ht =>
    split
    case h_1 r hr =>
      by_cases hsend : ∃ cmd, t = .sendPayload cmd
      · obtain ⟨cmd, rfl⟩ := hsend
        exact .sessionStep_sendPayload ht hr
      · have kept : s.ctrAfterMove = s.ctr :=
          s.ctrAfterMove_of_not_payloadReturned fun ⟨cmd, hcmd, _⟩ => hsend ⟨cmd, Option.some.inj (ht.symm.trans hcmd)⟩
        rw [kept]
        exact .sessionStep_of_ne (fun cmd h => hsend ⟨cmd, h⟩) r s
    case h_2 => exact .refused _ _
  case h_2 ht => exact .next (by simp [State.ctrAfterMove, ht])

theorem CtrBecomes.runWord (w : PortWord) (s : State) : CtrBecomes s.ctr (s.runWord w) := by
  unfold State.runWord State.rejectWord
  split
  · exact .exec rfl _
  · split <;> exact fun _ h => (issue_keeps (State.raise_keeps _ _) h).ctr

theorem CtrBecomes.beginSession (c : SessionCall) (s : State) : CtrBecomes s.ctr (s.beginSession c) := by
  unfold State.beginSession
  dsimp only
  split
  case h_1 cmd => exact .exec rfl _
  case h_2 =>
    unfold State.receiveEntering
    split <;> exact .exec rfl _
  case h_3 =>
    split
    · exact .exec rfl _
    · exact .refused _ _

/-- Between operations the counter is that of the host's move, unless a block reset is first in line. -/
theorem CtrBecomes.portMove {s : State} (hp : ∀ rest, s.pending ≠ .blockReset :: rest) :
    CtrBecomes s.ctrAfterMove s.portMove := by
  have idle (ht : ¬ s.task.isSome = true) : s.ctrAfterMove = s.ctr := by simp_all [State.ctrAfterMove]
  unfold State.portMove
  split
  case h_1 rest h => exact absurd h (hp rest)
  case h_2 rest h => exact .goOn { s with pending := rest }
  case h_3 w rest h =>
    split
    · exact .goOn s
    · rw [idle ‹_›]
      exact .runWord w { s with pending := rest }
  case h_4 c rest h =>
    split
    · exact .goOn s
    · rw [idle ‹_›]
      exact .beginSession c { s with pending := rest }
  case h_5 => exact .goOn s

/-- Settles O56: the chip's move and every operation keep the counter, and the host's move counts when it takes what
`BUILD_PAYLOAD` returned. -/
theorem counterRisesOncePerSend : Obligations.CounterRisesOncePerSend := by
  unfold Obligations.CounterRisesOncePerSend
  intro s t h resets built
  cases hb : s.busy with
  | true =>
    have hkept : t.ctr = s.ctr := step_of_busy hb h ▸ s.chipMove_keeps.ctr
    have hbusy : ¬ s.busy = false := by simp [hb]
    exact ⟨fun hbuilt => absurd hbuilt.1 hbusy, fun hresets => absurd hresets.1 hbusy, fun _ _ => hkept⟩
  | false =>
    have hport := step_of_idle hb h
    have hmove (hr : ¬ resets) : t.ctr = s.ctrAfterMove :=
      CtrBecomes.portMove (fun rest hp => hr ⟨hb, rest, hp⟩) t hport
    refine ⟨?_, ?_, fun hbuilt hr => ?_⟩
    · rintro ⟨-, hr, hreturned⟩
      rw [hmove hr, State.ctrAfterMove_of_payloadReturned hreturned]
    · rintro ⟨-, rest, hp⟩
      simp only [State.portMove, hp] at hport
      cases hport
      rfl
    · rw [hmove hr, s.ctrAfterMove_of_not_payloadReturned fun hreturned => hbuilt ⟨hb, hr, hreturned⟩]

/-! ### The host's next move -/

/-- A running sequence goes on with what its operation returned. -/
theorem step_of_returned {s : State} {t : SessionTask} {r : OpResult} (hv : s.cfg.valid = true) (hb : s.busy = false)
    (hu : s.undisturbed) (ht : s.task = some t) (hr : s.result = some r) : step s = s.sessionStep t r := by
  rw [State.step_undisturbed hv hb hu ht, State.sessionMove, hr]

/-- A session call first in line with no sequence running begins, taken from the line. -/
theorem step_of_call {s : State} {c : SessionCall} {rest : List Request} (hv : s.cfg.valid = true) (hb : s.busy = false)
    (ht : s.task = none) (hp : s.pending = .session c :: rest) :
    step s = ({ s with pending := rest } : State).beginSession c := by
  simp [step, hv, hb, State.portMove, hp, ht]

/-- A request for a single move first in line is taken with the move. -/
theorem step_of_goOn {s : State} {rest : List Request} (hv : s.cfg.valid = true) (hb : s.busy = false)
    (hp : s.pending = .goOn :: rest) : step s = ({ s with pending := rest } : State).goOn := by
  simp [step, hv, hb, State.portMove, hp]

/-- A register list's write is an operation of the list's writes. -/
theorem mem_profileWrites {c : Cfg} {n : Nat} {w : ProfileWrite} {l : List ProfileWrite} (h : w ∈ l) :
    ProfileWrite.instr c n w ∈ profileWrites c n l :=
  List.mem_map_of_mem h

/-- What is not a fault sends `enter_receive_mode` on with the operations still to issue. -/
theorem State.sessionStep_rxSetup {r : OpResult} (h : ∀ code, r ≠ .faulted code) (left : List Instr) (s : State) :
    s.sessionStep (.rxSetup left) r = s.receiveEntering left := by
  cases r with
  | faulted code => exact absurd rfl (h code)
  | _ => rfl

/-! ### The statements -/

/-- Settles O57: each result calls for one move of the sequence, and a move asked for by a request of its own does not
look at what stands behind the request. -/
theorem sendFollowsTheProcedure : Obligations.SendFollowsTheProcedure := by
  unfold Obligations.SendFollowsTheProcedure
  intro s cmd hv hb
  refine ⟨fun n l => ?_, fun n => ?_, fun rest hp => ⟨fun ht => ?_, fun ht => ?_⟩, fun hu => ?_⟩
  · refine List.map_congr_left fun w _ => ?_
    cases w <;> rfl
  · exact mem_profileWrites ((Cfg.valid_iff _).mp hv).txLength
  · rw [step_of_goOn hv hb hp, State.goOn, ht]
  · obtain ⟨t, ht⟩ := Option.ne_none_iff_exists'.mp ht
    have hmove := State.sessionMove_withPending t rest { s with pending := [] }
    have halone : step { s with pending := [] } = ({ s with pending := [] } : State).sessionMove t :=
      State.step_undisturbed hv hb (by simp [State.undisturbed]) ht
    have hasked : step s = ({ s with pending := rest } : State).sessionMove t := by
      simp [step_of_goOn hv hb hp, State.goOn, ht]
    rw [halone, hasked]
    exact ⟨hmove.next, hmove.refused⟩
  · have returned {t : SessionTask} {r : OpResult} (ht : s.task = some t) (hr : s.result = some r) :=
      step_of_returned hv hb hu ht hr
    refine ⟨fun _ ht hp => step_of_call hv hb ht hp, fun _ ht hr => returned ht hr, fun _ ht hr => returned ht hr,
      fun _ ht hr => returned ht hr, fun f i more ht hr hops => ?_, fun _ _ _ _ ht hr => returned ht hr,
      fun _ _ ht hr => returned ht hr, fun _ ht hr => returned ht hr⟩
    have hentering : step s = s.sendEntering cmd f (enterTransmitOps s.cfg f.length) := returned ht hr
    rw [hentering, show enterTransmitOps s.cfg f.length = i :: more from hops]
    rfl

/-- Settles O58: the move after a transmission does not look at what it returned. -/
theorem retransmissionsFollowThePolicy : Obligations.RetransmissionsFollowThePolicy := by
  unfold Obligations.RetransmissionsFollowThePolicy
  intro s cmd f k r hv hb hu ht hr
  exact step_of_returned hv hb hu ht hr

/-- Settles O59: each result calls for one move of the sequence, a fault for its end without a packet; a valid
configuration's re-arm list has the three writes. -/
theorem pollFollowsTheProcedure : Obligations.PollFollowsTheProcedure := by
  unfold Obligations.PollFollowsTheProcedure
  intro s hv hb hu
  have returned {t : SessionTask} {r : OpResult} (ht : s.task = some t) (hr : s.result = some r) :=
    step_of_returned hv hb hu ht hr
  obtain ⟨hlength, hsync0, hsync1⟩ := ((Cfg.valid_iff _).mp hv).rearmWrites
  refine ⟨fun _ ht hp => step_of_call hv hb ht hp, fun _ ht hr => returned ht hr, fun _ _ ht hr => returned ht hr,
    fun p i more ht hr hops => ?_, ⟨mem_profileWrites hlength, mem_profileWrites hsync0, mem_profileWrites hsync1⟩,
    fun _ _ _ ht hr => returned ht hr, fun _ ht hr => returned ht hr, fun task code htask ht hr => ?_⟩
  · have hrearming : step s = s.pollRearming p (rearmOps s.cfg) := returned ht hr
    rw [hrearming, show rearmOps s.cfg = i :: more from hops]
    rfl
  · rcases htask with rfl | rfl | rfl | ⟨p, left, rfl⟩ <;> exact returned ht hr

/-- Settles O60: each result calls for one move of the sequence, a fault for its end; a valid configuration's receive
profile has the three writes. -/
theorem enterReceiveFollowsTheProcedure : Obligations.EnterReceiveFollowsTheProcedure := by
  unfold Obligations.EnterReceiveFollowsTheProcedure
  intro s hv hb hu
  have returned {t : SessionTask} {r : OpResult} (ht : s.task = some t) (hr : s.result = some r) :=
    step_of_returned hv hb hu ht hr
  obtain ⟨hlength, hsync0, hsync1⟩ := ((Cfg.valid_iff _).mp hv).rxWrites
  refine ⟨⟨mem_profileWrites hlength, mem_profileWrites hsync0, mem_profileWrites hsync1⟩,
    fun _ ht hp => step_of_call hv hb ht hp,
    fun _ _ _ ht hr hok => (returned ht hr).trans (State.sessionStep_rxSetup hok _ s),
    fun _ ht hr hok => (returned ht hr).trans (State.sessionStep_rxSetup hok _ s),
    fun _ ht hr => returned ht hr, fun _ ht hr => returned ht hr, fun _ _ ht hr => returned ht hr,
    fun _ ht hr => returned ht hr, fun st ht hr hne => ?_, fun task code htask ht hr => ?_⟩
  · have huntil : step s = s.rxUntil true s.cfg.marcRxovf := returned ht hr
    rw [huntil, State.rxUntil, if_neg hne]
    rfl
  · rcases htask with ⟨left, rfl⟩ | rfl | rfl | ⟨b, rfl⟩ | rfl | rfl <;> exact returned ht hr

end Sys2Proof.Machine
end

section
/-! PROOFS of the statements about exceptions (60_exceptions): operands refused before anything is sent, operations that
touch no bus, and the refusal of everything while a fault is stored. -/

namespace Sys2Proof.Machine

/-! ### While a fault is stored -/

/-- A stored fault refuses every instruction (60_exceptions R269). -/
theorem exec_of_faulted {s : State} (hb : s.busy = false) (hf : s.fault ≠ .none) (i : Instr) :
    exec i s = .next s.reportStored := by
  obtain ⟨body, hx, -⟩ := exec_begins i
  rw [hx, issue_of_faulted hb hf]

/-- A stored fault comes before what a word outside the tables raises (60_exceptions R274). -/
theorem State.rejectWord_of_faulted {s : State} (hb : s.busy = false) (hf : s.fault ≠ .none) (e : DecodeError) :
    s.rejectWord e = .next s.reportStored := by
  cases e <;> exact issue_of_faulted hb hf _

theorem State.runWord_of_faulted {s : State} (hb : s.busy = false) (hf : s.fault ≠ .none) (w : PortWord) :
    s.runWord w = .next s.reportStored := by
  unfold State.runWord
  split
  · exact exec_of_faulted hb hf _
  · exact State.rejectWord_of_faulted hb hf _

/-- Settles O24: issuing answers the stored code before it looks at the instruction or at what is wrong with the word. -/
theorem storedFaultRefusesEverything : Obligations.StoredFaultRefusesEverything := by
  unfold Obligations.StoredFaultRefusesEverything
  refine ⟨fun s i hb hf => exec_of_faulted hb hf i, fun s w rest hv hb ht hp hf => ?_⟩
  rw [step_of_word hv hb ht hp]
  exact State.runWord_of_faulted (s := { s with pending := rest }) hb hf w

/-! ### Operands that are refused -/

/-- A string or count above its bound fails the check of the bound. -/
theorem State.ensure_le_of_lt {n m : Nat} (h : m < n) {code : FaultCode} {go : State → State} {s : State} :
    s.ensure (n ≤ m) code go = s.raise code :=
  State.ensure_of_not (mt of_decide_eq_true h.not_ge)

/-- The codes from 8 on name no command with a signature (30_encoding R93, 10_state R27). -/
theorem row_ofCode_of_le {cmd : BitVec 4} (h : 8 ≤ cmd.toNat) (t : SigTable) :
    (Command.ofCode cmd).bind (SigTable.row t) = none := by
  unfold Command.ofCode
  split
  case h_9 | h_10 => rfl
  all_goals omega

/-- `BUILD_PAYLOAD` of a command without a signature, or without an identity, is refused (44_codec R210). -/
theorem exec_buildPayload_refused {s : State} {cmd : BitVec 4} (ha : s.accepting) (hc : s.csn = false)
    (h : 8 ≤ cmd.toNat ∨ s.ident = none) (ctr : Byte) :
    exec (.buildPayload cmd ctr) s = .next (s.faultedAfter [] s.inbox .illegalOperand) := by
  rw [exec, execBuildPayload]
  refine issue_of_raise ha hc ?_
  rw [State.accept_ident, State.accept_sig]
  obtain hcmd | hid := h
  · rw [row_ofCode_of_le hcmd]
    split
    · next hrow => cases hrow
    · rfl
  · rw [hid]

/-- Settles O23: the failing condition is one of the checks an operation makes before anything else; the codec's own
statements (44_codec) say so of some. -/
theorem illegalOperandIsRefused : Obligations.IllegalOperandIsRefused := by
  unfold Obligations.IllegalOperandIsRefused
  intro s i ha hc h
  cases i with
  | writeBurst | readBurst | hdrWrb | hdrRdb | receiveFifo => exact issue_of_raise ha hc (State.ensure_le_of_lt h)
  | transmitFifo b =>
    refine issue_of_raise ha hc (State.ensure_of_not ?_)
    rcases h with rfl | h
    · simp
    · simp [h.not_ge]
  | statusDecode =>
    have hnone : s.status = none := h
    rw [exec, execStatusDecode]
    exact issue_of_raise ha hc (by rw [State.accept_status, hnone])
  | encode p =>
    have hnot : ¬ encodable s.cfg p = true := by
      rw [encodable_iff]
      omega
    exact issue_of_raise ha hc (State.ensure_of_not hnot)
  | decode w =>
    refine issue_of_raise ha hc (State.ensure_of_not ?_)
    rcases h with h | h <;> simp [h.not_ge]
  | csumGen b =>
    obtain ⟨-, -, -, hgen, -⟩ := checksumCompletes s b ha
    exact hgen hc h
  | csumChk b =>
    obtain ⟨-, -, -, -, hchk⟩ := checksumCompletes s b ha
    exact hchk hc h
  | chkCmp d c => exact (checkBytesCompare s d c ha).2 hc h
  | findCmd b => exact issue_of_raise ha hc (State.ensure_of_not (mt eq_of_beq h))
  | buildPayload cmd ctr => exact exec_buildPayload_refused ha hc h ctr
  | buildFrame p =>
    refine (frameLayout s p ha).2 hc ?_
    rw [← frame_length]
    exact h
  | parse d c => exact (parseReadsTheLayout s d c ha).1 hc h
  | _ => exact h.elim

/-! ### Operations that touch no bus -/

/-- The operation in the block has ended, with the bus as it was; at most an operand was refused. -/
structure State.EndsOffBus (s t : State) : Prop where
  csn : t.csn = s.csn
  status : t.status = s.status
  trace : t.trace = s.trace
  inbox : t.inbox = s.inbox
  busy : t.busy = false
  seq : t.seq = none
  fault : t.fault = s.fault ∨ s.fault = .none ∧ t.fault = .illegalOperand

theorem State.EndsOffBus.finish (s : State) (r : OpResult) : s.EndsOffBus (s.finish r) :=
  ⟨rfl, rfl, rfl, rfl, rfl, rfl, .inl rfl⟩

/-- With the chip deselected a refusal does nothing on the pins (60_exceptions R268). -/
theorem State.EndsOffBus.raise {s : State} (hc : s.csn = false) : s.EndsOffBus (s.raise .illegalOperand) where
  csn := by simp [hc]
  status := by simp
  trace := by simp [hc]
  inbox := by simp
  busy := rfl
  seq := rfl
  fault := by by_cases hf : s.fault = .none <;> simp [hf]

theorem State.EndsOffBus.ensure {s : State} {c : Bool} {go : State → State} (hc : s.csn = false)
    (h : s.EndsOffBus (go s)) : s.EndsOffBus (s.ensure c .illegalOperand go) := by
  cases c
  · exact .raise hc
  · exact h

/-- Issued with nothing in flight, an operation whose body ends off the bus does so, and a refused one too. -/
theorem State.EndsOffBus.issue {s t : State} {body : State → State} (h : issue s body = .next t) (hq : s.seq = none)
    (hbody : s.accept.EndsOffBus (body s.accept)) : s.EndsOffBus t := by
  obtain ⟨hb, ⟨-, rfl⟩ | ⟨-, rfl⟩⟩ := issue_next_cases h
  · rw [State.settle_of_idle hbody.seq]
    exact { hbody with }
  · exact ⟨rfl, rfl, rfl, rfl, hb, hq, .inl rfl⟩

/-- Settles O50: the body of each of the twelve completes or refuses an operand, with nothing left to settle. -/
theorem codecTouchesNoBus : Obligations.CodecTouchesNoBus := by
  unfold Obligations.CodecTouchesNoBus
  intro s t i hc hq hcodec h
  have hends : s.EndsOffBus t := by
    have hca : s.accept.csn = false := hc
    cases i with
    | encode | decode | csumGen | csumChk | chkCmp | findCmd | parse =>
      exact .issue h hq (.ensure hca (.finish _ _))
    | buildFrame => exact .issue h hq (.ensure hca (.ensure hca (.finish _ _)))
    | declen => exact .issue h hq (.finish _ _)
    | cfgId =>
      rw [exec, execCfgId] at h
      exact .issue h hq ⟨rfl, rfl, rfl, rfl, rfl, rfl, .inl rfl⟩
    | statusDecode | buildPayload =>
      simp only [exec, execStatusDecode, execBuildPayload] at h
      refine .issue h hq ?_
      split
      · exact .finish _ _
      · exact .raise hca
    | _ => exact hcodec.elim
  exact ⟨hends.csn, hends.status, hends.trace, hends.inbox, hends.busy, hends.seq, hends.fault⟩

end Sys2Proof.Machine
end

section
/-! PROOFS of the statements about reset and hazards (70_reset): what every step keeps of the pins, packaged once, the
bracket order of hazard H-2, the legal headers of hazard H-1, construction and block reset. -/

namespace Sys2Proof.Machine

/-! ### An invariant of the pins, packaged once -/

/-- A property of the configuration, the chip select, the sequencer and the record of the pins that holds after construction
and that every part of a step keeps. -/
structure PinsInvariant (P : State → Prop) : Prop where
  /-- It looks at nothing else. -/
  frame : ∀ {s t : State}, P s → t.cfg = s.cfg → t.csn = s.csn → t.seq = s.seq → t.trace = s.trace → P t
  fresh : ∀ {c : Cfg}, c.valid = true → P (State.fresh c)
  pause : ∀ {s : State} (n : Nat), s.seq = none → P s → P (s.pause n)
  raise : ∀ {s : State} (code : FaultCode), s.seq = none → P s → P (s.raise code)
  begins : ∀ i : Instr, ∃ body : State → State, (∀ s, exec i s = issue s body) ∧ ∀ s, s.seq = none → P s → P (body s)
  takes : ∀ {s t : State} {q : Seq} {a : BusSample}, s.seq = some q → s.Takes q a t → P s → P t

section
variable {P : State → Prop} {s t : State} (hP : PinsInvariant P)
include hP

theorem PinsInvariant.takeAll (l : List BusSample) (h : P s) : P (State.takeAll l s) := by
  refine State.takeAll_induct (P := P) (fun _ _ h => hP.frame h rfl rfl rfl rfl) (fun s a h => ?_) l s h
  cases hq : s.seq with
  | none => simpa [State.takeSample, hq] using h
  | some q => exact hP.takes hq (State.takeSample_takes hq a) h

theorem PinsInvariant.chipMove (h : P s) : P s.chipMove := by
  unfold State.chipMove
  split
  · exact hP.takeAll (s := { s with drawn := s.drawn + 1 }) _ (hP.frame h rfl rfl rfl rfl)
  · exact hP.takeAll _ h

theorem PinsInvariant.issue {body : State → State} (h : P s) (hbody : P s.accept → P (body s.accept))
    (hi : issue s body = .next t) : P t := by
  obtain ⟨-, ⟨-, rfl⟩ | ⟨-, rfl⟩⟩ := issue_next_cases hi
  · exact hP.takeAll _ (hbody (hP.frame h rfl rfl rfl rfl))
  · exact hP.frame h rfl rfl rfl rfl

theorem PinsInvariant.exec {i : Instr} (hq : s.seq = none) (h : P s) (hi : exec i s = .next t) : P t := by
  obtain ⟨body, hx, hbody⟩ := hP.begins i
  exact hP.issue h (hbody s.accept hq) ((hx s).symm.trans hi)

/-- All the host does on the pins is to let a gap pass. -/
theorem PinsInvariant.hostSide (hq : s.seq = none) (h : P s) (hside : s.HostSide t) : t.seq = none ∧ P t := by
  obtain ⟨ctr, mode, task, pending, sessionResult, gap, rfl | ⟨n, rfl⟩, rfl⟩ := hside
  · exact ⟨hq, hP.frame h rfl rfl rfl rfl⟩
  · exact ⟨hq, hP.frame (hP.pause n hq h) rfl rfl rfl rfl⟩

theorem PinsInvariant.portMove {o : Host.Outcome State Fault Refusal} (hv : s.cfg.valid = true) (hq : s.seq = none)
    (h : P s) (hmove : s.PortMove o) (ho : o = .next t) : P t := by
  cases hmove with
  | run i hside =>
    obtain ⟨hq, h⟩ := hP.hostSide hq h hside
    exact hP.exec hq h ho
  | illegal code _ hside =>
    obtain ⟨hq, h⟩ := hP.hostSide hq h hside
    exact hP.issue h (hP.raise code hq) ho
  | host hside =>
    cases ho
    exact (hP.hostSide hq h hside).2
  | blockReset hside =>
    cases ho
    obtain ⟨_, _, _, _, _, _, -, rfl⟩ := hside
    exact hP.frame (hP.fresh hv) rfl rfl rfl rfl
  | refused r => cases ho

/-- A step of a coherent block is the chip's move or a move between operations, and each keeps the invariant. -/
theorem PinsInvariant.step (hs : Coherent s) (h : P s) (hstep : step s = .next t) : P t := by
  cases hb : s.busy with
  | true =>
    rw [step_of_busy hb hstep]
    exact hP.chipMove h
  | false => exact hP.portMove hs.valid (hs.idle hb).1 h s.portMove_cases (step_of_idle hb hstep)

end

/-! ### The bracket order (70_reset R295) -/

@[simp] theorem busPhase_cons (e : BusEvent) (older : List BusEvent) :
    busPhase (e :: older) = (busPhase older).bind (BusPhase.after · e) := rfl

/-- The bracket order, with the chip select telling of a transaction, in a block that exists. -/
structure InOrder (s : State) : Prop where
  valid : s.cfg.valid = true
  csn : s.csn = s.seq.isSome
  bracketed : Bracketed s

/-- The chip is deselected and no bracket is open, whatever the sequencer says: an operation is accepted, or a transaction
has ended and the procedure has not gone on. -/
structure State.BusFree (s : State) : Prop where
  valid : s.cfg.valid = true
  csn : s.csn = false
  phase : busPhase s.trace = some .idle

/-- In a coherent block the chip is selected exactly while an operation is in flight (40_bus R121). -/
theorem Coherent.csn {s : State} (h : Coherent s) : s.csn = s.seq.isSome := by
  obtain ⟨-, -, -, hc, -⟩ := h
  exact hc

theorem InOrder.busFree {s : State} (h : InOrder s) (hq : s.seq = none) : s.BusFree :=
  ⟨h.valid, by simp [h.csn, hq], by simpa [Bracketed, State.phase, hq] using h.bracketed⟩

theorem State.BusFree.inOrder {s : State} (h : s.BusFree) (hq : s.seq = none) : InOrder s :=
  ⟨h.valid, by simp [h.csn, hq], by simpa [Bracketed, State.phase, hq] using h.phase⟩

theorem State.BusFree.pause {s : State} (h : s.BusFree) (n : Nat) : (s.pause n).BusFree :=
  ⟨h.valid, h.csn, by simp [h.phase, BusPhase.after]⟩

theorem State.BusFree.finish {s : State} (h : s.BusFree) (r : OpResult) : InOrder (s.finish r) :=
  State.BusFree.inOrder (s := s.finish r) ⟨h.valid, h.csn, h.phase⟩ rfl

/-- A fault taken with the chip deselected does nothing on the pins. -/
theorem State.BusFree.raise {s : State} (h : s.BusFree) (code : FaultCode) : InOrder (s.raise code) :=
  State.BusFree.inOrder (s := s.raise code) ⟨by simp [h.valid], by simp, by simp [h.csn, h.phase]⟩ rfl

/-- A fault taken in a bracket closes it (60_exceptions R268). -/
theorem InOrder.raise_of_selected {s : State} (hv : s.cfg.valid = true) (hc : s.csn = true)
    (hclose : busPhase (.deselect :: s.trace) = some .idle) (code : FaultCode) : InOrder (s.raise code) :=
  State.BusFree.inOrder (s := s.raise code) ⟨by simp [hv], by simp, by simpa [hc] using hclose⟩ rfl

/-- A transaction opens a bracket where none is open, whatever the chip select was recorded to be. -/
theorem InOrder.beginTxn {s : State} (hv : s.cfg.valid = true) (hp : busPhase s.trace = some .idle) (pos : Pos)
    (out : List Byte) : InOrder (s.beginTxn pos out) :=
  ⟨hv, rfl, by simp [Bracketed, State.phase, Txn.start, hp, BusPhase.after]⟩

theorem State.Goes.inOrder {s t : State} {ok : Prop} (h : s.Goes ok t) (hs : s.BusFree) : InOrder t := by
  cases h with
  | finish r => exact hs.finish r
  | settled n => exact (hs.pause n).finish _
  | raise => exact hs.raise _
  | begin pos out => exact .beginTxn hs.valid hs.phase pos out

/-- One answer taken: the wait for ready goes on or ends, the exchange goes on, or the bracket closes. -/
theorem State.Takes.inOrder {s t : State} {q : Seq} {a : BusSample} (hq : s.seq = some q) (h : s.Takes q a t)
    (hs : InOrder s) : InOrder t := by
  obtain ⟨hv, hc, hb⟩ := hs
  have hc : s.csn = true := by simp [hc, hq]
  have hp : busPhase s.trace = some (if q.txn.ready then .readied else .selected) := by
    simpa [Bracketed, State.phase, hq] using hb
  cases h with
  | notReady hr => exact ⟨hv, hc, by simpa [Bracketed, State.phase] using hp⟩
  | gaveUp hr => exact .raise_of_selected hv hc (by simp [hp, hr, BusPhase.after]) _
  | ready hr => exact ⟨hv, hc, by simp [Bracketed, State.phase, hp, hr, BusPhase.after]⟩
  | failed hr => exact .raise_of_selected (s := s.emit _) hv hc (by simp [hp, hr, BusPhase.after]) _
  | byte hr => exact ⟨hv, hc, by simpa [Bracketed, State.phase] using hp⟩
  | last hr =>
    exact (State.goes_resume _ _ _).inOrder ⟨hv, rfl, by simp [hp, hr, BusPhase.after]⟩

/-- Where the bus stands after a bare level of `RESET`'s pulse list. -/
def BusPhase.ofLevel (level : Bool) : BusPhase := if level then .selected else .idle

/-- A pulse opens a bracket where none is open, or leaves none open. -/
theorem busPhase_pulse {level next : Bool} {older : List BusEvent} (hp : busPhase older = some (.ofLevel level))
    (hclose : level = true → next = false) (delay : Nat) :
    busPhase ([.wait delay, if next then .select else .deselect] ++ older) = some (.ofLevel next) := by
  cases level with
  | false => cases next <;> simp [hp, BusPhase.ofLevel, BusPhase.after]
  | true =>
    obtain rfl := hclose rfl
    simp [hp, BusPhase.ofLevel, BusPhase.after]

/-- Pulses that alternate from a level and end with level 0 leave no bracket open (41_driver R130). -/
theorem busPhase_pulseTrace_after (l : List (Bool × Nat)) : ∀ (level : Bool) (delay : Nat) (older : List BusEvent),
    rstSeqOk ((level, delay) :: l) = true → busPhase older = some (.ofLevel level) →
    busPhase (pulseTrace l ++ older) = some .idle := by
  induction l with
  | nil =>
    intro level delay older hl hp
    cases level
    · exact hp
    · cases hl
  | cons pulse l ih =>
    obtain ⟨next, delay'⟩ := pulse
    intro level delay older hl hp
    simp only [rstSeqOk, Bool.and_eq_true, bne_iff_ne] at hl
    obtain ⟨hne, hl⟩ := hl
    rw [pulseTrace, List.append_assoc]
    exact ih next delay' _ hl (busPhase_pulse hp (fun hlevel => by simpa [hlevel] using hne) delay')

/-- `RESET`'s pulse list opens and closes brackets without an exchange (41_driver R130). -/
theorem busPhase_pulseTrace {l : List (Bool × Nat)} {older : List BusEvent} (hl : rstSeqOk l = true)
    (hp : busPhase older = some .idle) : busPhase (pulseTrace l ++ older) = some .idle := by
  cases l with
  | nil => exact hp
  | cons pulse l =>
    obtain ⟨level, delay⟩ := pulse
    rw [pulseTrace, List.append_assoc]
    exact busPhase_pulseTrace_after l level delay _ hl (busPhase_pulse (level := false) hp (by simp) delay)

theorem Instr.Begins.inOrder {i : Instr} {s t : State} (h : Instr.Begins i s t) (hs : s.BusFree) : InOrder t := by
  cases h with
  | finish r => exact hs.finish r
  | identify a b c d =>
    exact State.BusFree.finish (s := { s with ident := some ⟨a, b, c, d⟩ }) ⟨hs.valid, hs.csn, hs.phase⟩ .done
  | raise code => exact hs.raise code
  | begin pos out => exact .beginTxn hs.valid hs.phase pos out
  | pulse =>
    obtain ⟨level, h⟩ := s.pulses_eq s.cfg.rstSeq
    rw [h]
    exact .beginTxn (s := { s with csn := level, trace := _ }) hs.valid
      (busPhase_pulseTrace (Cfg.facts hs.valid).rst hs.phase) _ _

/-- The bracket order is an invariant of the pins. -/
theorem inOrder_pinsInvariant : PinsInvariant InOrder where
  frame h hcfg hcsn hseq htrace := ⟨hcfg ▸ h.valid, by rw [hcsn, hseq, h.csn], by
    rw [Bracketed, State.phase, hseq, htrace]
    exact h.bracketed⟩
  fresh hv := ⟨hv, rfl, rfl⟩
  pause n hq h := ((h.busFree hq).pause n).inOrder hq
  raise code hq h := (h.busFree hq).raise code
  begins i := by
    obtain ⟨body, hx, hbegin⟩ := exec_begins i
    exact ⟨body, hx, fun s hq h => (hbegin s).inOrder (h.busFree hq)⟩
  takes := State.Takes.inOrder

/-- Settles O52: with the configuration and the chip select in agreement the order is an invariant of the pins. -/
theorem bracketOrderIsKept : Obligations.BracketOrderIsKept := by
  unfold Obligations.BracketOrderIsKept
  intro s t hs hb h
  exact (inOrder_pinsInvariant.step hs ⟨hs.valid, hs.csn, hb⟩ h).bracketed

/-! ### Legal headers (70_reset R294) -/

/-- Everything sent so far is legal, in a block that exists; nothing is said of what is being sent. -/
structure State.SentLegal (s : State) : Prop where
  valid : s.cfg.valid = true
  sent : ∀ e ∈ s.trace, ∀ o, e.sent = some o → legalBytes s.cfg o = true

/-- Everything sent so far and being sent is legal, in a block that exists. -/
structure SendsLegal (s : State) : Prop where
  valid : s.cfg.valid = true
  onlyLegal : OnlyLegalSent s

theorem SendsLegal.sentLegal {s : State} (h : SendsLegal s) : s.SentLegal := ⟨h.valid, h.onlyLegal.1⟩

theorem State.SentLegal.sendsLegal {s : State} (h : s.SentLegal) (hq : s.seq = none) : SendsLegal s :=
  ⟨h.valid, h.sent, by simp [hq]⟩

theorem State.SentLegal.sendsLegal_inFlight {s : State} {q : Seq} (h : s.SentLegal) (hq : s.seq = some q)
    (hlegal : legalBytes s.cfg q.txn.bytesOut = true) (hsound : q.pos.sound s.cfg = true) : SendsLegal s :=
  ⟨h.valid, h.sent, by
    rintro _ hq'
    cases hq.symm.trans hq'
    exact ⟨hlegal, hsound⟩⟩

theorem State.SentLegal.emit {s : State} (h : s.SentLegal) {e : BusEvent}
    (he : ∀ o, e.sent = some o → legalBytes s.cfg o = true) : (s.emit e).SentLegal :=
  ⟨h.valid, List.forall_mem_cons.mpr ⟨he, h.sent⟩⟩

/-- An event that sends nothing. -/
theorem State.SentLegal.emit_none {s : State} (h : s.SentLegal) {e : BusEvent} (he : e.sent = none) :
    (s.emit e).SentLegal := h.emit (by simp [he])

theorem State.SentLegal.finish {s : State} (h : s.SentLegal) (r : OpResult) : SendsLegal (s.finish r) :=
  State.SentLegal.sendsLegal (s := s.finish r) ⟨h.valid, h.sent⟩ rfl

theorem State.SentLegal.raise {s : State} (h : s.SentLegal) (code : FaultCode) : SendsLegal (s.raise code) := by
  refine State.SentLegal.sendsLegal ⟨by simp [h.valid], ?_⟩ rfl
  rw [State.raise_trace, State.raise_cfg]
  split
  · exact (h.emit_none (e := .deselect) rfl).sent
  · exact h.sent

theorem State.SentLegal.beginTxn {s : State} (h : s.SentLegal) {pos : Pos} {out : List Byte}
    (hlegal : legalBytes s.cfg out = true) (hsound : pos.sound s.cfg = true) : SendsLegal (s.beginTxn pos out) :=
  State.SentLegal.sendsLegal_inFlight (s := s.beginTxn pos out) ⟨h.valid, (h.emit_none (e := .select) rfl).sent⟩ rfl
    hlegal hsound

theorem State.Goes.sendsLegal {s t : State} {ok : Prop} (h : s.Goes ok t) (hok : ok) (hs : s.SentLegal) :
    SendsLegal t := by
  cases h with
  | finish r => exact hs.finish r
  | settled n => exact State.SentLegal.finish (s := s.pause n) (hs.emit_none rfl) _
  | raise => exact hs.raise _
  | begin pos out _ hlegal => exact hs.beginTxn (hlegal hok).1 (hlegal hok).2

/-- One answer taken: what is on the bus stays, or it is recorded and the procedure goes on from a sound position. -/
theorem State.Takes.sendsLegal {s t : State} {q : Seq} {a : BusSample} (hq : s.seq = some q) (h : s.Takes q a t)
    (hs : SendsLegal s) : SendsLegal t := by
  have hsent := hs.sentLegal
  obtain ⟨hlegal, hsound⟩ := hs.onlyLegal.2 q hq
  have hbytes : ∀ o, some q.txn.bytesOut = some o → legalBytes s.cfg o = true := by
    rintro _ ⟨⟩
    exact hlegal
  cases h with
  | notReady | byte => exact State.SentLegal.sendsLegal_inFlight ⟨hsent.valid, hsent.sent⟩ rfl hlegal hsound
  | ready =>
    exact State.SentLegal.sendsLegal_inFlight ⟨hsent.valid, (hsent.emit_none (e := .ready) rfl).sent⟩ rfl hlegal hsound
  | gaveUp => exact hsent.raise _
  | failed => exact State.SentLegal.raise (hsent.emit (e := .exchangeFailed _) hbytes) _
  | last =>
    exact (State.goes_resume _ _ _).sendsLegal ⟨Cfg.facts hsent.valid, hsound⟩
      ⟨hsent.valid, (State.SentLegal.emit_none (hsent.emit (e := .exchange _ _) hbytes) (e := .deselect) rfl).sent⟩

/-! ### What an instruction sends first -/

/-- An address operand that fits 6 bits keeps its value. -/
theorem field6_toNat {a : Byte} (h : a.toNat < 64) : (field6 a).toNat = a.toNat := by
  simpa [field6] using h

theorem inStatRange_field6 : ∀ {a : Byte}, inStatRange a.toNat = true → inStatRange (field6 a).toNat = true := by
  unfold field6
  decide

theorem legalReadCfg_field6 : ∀ {a : Byte}, legalReadCfg a.toNat = true → legalReadCfg (field6 a).toNat = true := by
  unfold field6
  decide

theorem legalWrite_field6 {c : Cfg} {a : Byte} (h : legalWrite c a.toNat = true) :
    legalWrite c (field6 a).toNat = true := by
  rwa [field6_toNat (legalWrite_iff.mp h).lt]

theorem legalBurst_field6 {c : Cfg} {a : Byte} {n : Nat} (h : legalBurst c a.toNat n = true) :
    legalBurst c (field6 a).toNat n = true := by
  rwa [field6_toNat (legalBurst_iff.mp h).lt]

/-- A check that fails raises its fault and sends nothing. -/
theorem State.SentLegal.ensure {s : State} (h : s.SentLegal) {c : Bool} {code : FaultCode} {go : State → State}
    (hgo : c = true → SendsLegal (go s)) : SendsLegal (s.ensure c code go) := by
  cases c
  · exact h.raise code
  · exact hgo rfl

/-- A burst write within `BURST_MAX` at a legal start; zero bytes send nothing. -/
theorem State.SentLegal.burstWrite {s : State} (h : s.SentLegal) {a : Addr} {v : List Byte}
    (hlen : v.length ≤ s.cfg.burstMax) (hlegal : legalBurst s.cfg a.toNat v.length = true) :
    SendsLegal (if v = [] then s.finish .done else s.beginTxn .write (wrbBytes a v)) := by
  split
  · exact h.finish _
  · next hv => exact h.beginTxn (legalBytes_burst hv hlegal hlen) rfl

/-- A burst read within `BURST_MAX` at a legal start; zero bytes send nothing. -/
theorem State.SentLegal.burstRead {s : State} (h : s.SentLegal) {a : Addr} {n : Nat}
    (hlen : n ≤ s.cfg.burstMax) (hlegal : legalBurst s.cfg a.toNat n = true) :
    SendsLegal (if n = 0 then s.finish (.bytes []) else s.beginTxn .readMany (rdbBytes a n)) := by
  split
  · exact h.finish _
  · next hn => exact h.beginTxn (legalBytes_burstRead (Cfg.facts h.valid) hn hlegal hlen) rfl

/-- `RESET`'s pulses send nothing (41_driver R130). -/
theorem State.SentLegal.pulses (l : List (Bool × Nat)) : ∀ {s : State}, s.SentLegal → (s.pulses l).SentLegal := by
  induction l with
  | nil => exact id
  | cons pulse l ih =>
    obtain ⟨level, delay⟩ := pulse
    intro s h
    have hlevel : (if level then s.select else s.deselect).SentLegal := by
      cases level
      · exact ⟨h.valid, (h.emit_none (e := .deselect) rfl).sent⟩
      · exact ⟨h.valid, (h.emit_none (e := .select) rfl).sent⟩
    exact ih (hlevel.emit_none rfl)

/-- The check each instruction makes lets only legal headers through (41_driver R131). -/
theorem exec_sendsLegal (i : Instr) :
    ∃ body : State → State, (∀ s, exec i s = issue s body) ∧ ∀ s : State, s.SentLegal → SendsLegal (body s) := by
  cases i <;> refine ⟨_, fun s => by unfold exec; rfl, fun s h => ?_⟩
  case reset =>
    have hcfg : (s.pulses s.cfg.rstSeq).cfg = s.cfg := (s.pulses_keeps _).cfg
    have hp := h.pulses s.cfg.rstSeq
    exact (State.goes_strobe fun _ => ⟨hcfg ▸ (Cfg.facts h.valid).codes.1, rfl⟩).sendsLegal trivial hp
  case strobe => exact h.ensure fun ha => h.beginTxn (legalBytes_strobe (inStatRange_field6 ha)) rfl
  case hdrStrobe => exact h.ensure fun ha => h.beginTxn (legalBytes_strobe ha) rfl
  case writeReg =>
    exact h.ensure fun ha => h.beginTxn (legalBytes_write (Cfg.facts h.valid) _ (legalWrite_field6 ha)) rfl
  case hdrWrs => exact h.ensure fun ha => h.beginTxn (legalBytes_write (Cfg.facts h.valid) _ ha) rfl
  case writeBurst =>
    exact h.ensure fun hl => h.ensure fun ha => h.burstWrite (of_decide_eq_true hl) (legalBurst_field6 ha)
  case hdrWrb => exact h.ensure fun hl => h.ensure fun ha => h.burstWrite (of_decide_eq_true hl) ha
  case readReg addr kind =>
    cases kind
    · exact h.ensure fun ha => h.beginTxn (legalBytes_read (legalReadCfg_field6 ha)) rfl
    · refine State.SentLegal.ensure (go := fun s => if inSyncSet s.cfg (field6 addr) then _ else _) h fun ha => ?_
      have hstat := inStatRange_field6 ha
      split
      · exact (State.goes_arbiter fun _ => ⟨hstat, rfl⟩).sendsLegal trivial h
      · exact h.beginTxn (legalBytes_stat hstat) rfl
  case hdrRds => exact h.ensure fun ha => h.beginTxn (legalBytes_read ha) rfl
  case hdrRdstat => exact h.ensure fun ha => h.beginTxn (legalBytes_stat ha) rfl
  case readMed3 =>
    exact h.ensure fun ha => (State.goes_median fun _ => inStatRange_field6 ha).sendsLegal trivial h
  case readBurst =>
    exact h.ensure fun hl => h.ensure fun ha => h.burstRead (of_decide_eq_true hl) (legalBurst_field6 ha)
  case hdrRdb => exact h.ensure fun hl => h.ensure fun ha => h.burstRead (of_decide_eq_true hl) ha
  case receiveFifo =>
    obtain ⟨-, -, -, -, -, -, -, hrx, -⟩ := (Cfg.facts h.valid).codes
    exact h.ensure fun hl => (State.goes_arbiter (use := .rxOcc _) fun _ => ⟨hrx, hl⟩).sendsLegal trivial h
  case transmitFifo b =>
    obtain ⟨-, hidle, -⟩ := (Cfg.facts h.valid).codes
    refine h.ensure fun hb => (State.goes_strobe fun _ => ⟨hidle, ?_⟩).sendsLegal trivial h
    cases b
    · cases hb
    · rfl
  case cfgId t a b c => exact State.SentLegal.finish (s := { s with ident := some ⟨t, a, b, c⟩ }) ⟨h.valid, h.sent⟩ .done
  case declen => exact h.finish _
  case statusDecode | buildPayload =>
    split
    · exact h.finish _
    · exact h.raise _
  case buildFrame => exact h.ensure fun _ => h.ensure fun _ => h.finish _
  case encode | decode | csumGen | csumChk | chkCmp | findCmd | parse => exact h.ensure fun _ => h.finish _

/-- Sending only legal headers is an invariant of the pins. -/
theorem sendsLegal_pinsInvariant : PinsInvariant SendsLegal where
  frame h hcfg _ hseq htrace := ⟨hcfg ▸ h.valid, by
    rw [OnlyLegalSent, hcfg, hseq, htrace]
    exact h.onlyLegal⟩
  fresh hv := State.SentLegal.sendsLegal ⟨hv, by simp [State.fresh]⟩ rfl
  pause n hq h := State.SentLegal.sendsLegal (h.sentLegal.emit_none (e := .wait n) rfl) hq
  raise code _ h := h.sentLegal.raise code
  begins i := by
    obtain ⟨body, hx, hbody⟩ := exec_sendsLegal i
    exact ⟨body, hx, fun s _ h => hbody s h.sentLegal⟩
  takes := State.Takes.sendsLegal

/-- Settles O53: in a block that exists, sending only legal headers is an invariant of the pins. -/
theorem onlyLegalHeadersAreSent : Obligations.OnlyLegalHeadersAreSent := by
  unfold Obligations.OnlyLegalHeadersAreSent
  intro s t hs hl h
  exact (sendsLegal_pinsInvariant.step hs ⟨hs.valid, hl⟩ h).onlyLegal

/-! ### Construction and block reset (70_reset R290, R292) -/

theorem State.construct_of_valid {c : Cfg} (h : c.valid = true) : State.construct c = .ok (State.fresh c) := if_pos h

/-- Any other configuration is refused (60_exceptions R265). -/
theorem State.construct_of_not_valid {c : Cfg} (h : ¬ c.valid = true) :
    State.construct c = .error .configMismatch := if_neg h

/-- Settles O46: `Cfg.valid` is the list of constraints, and a constructed block is the fresh one. -/
theorem constructionChecksAndResets : Obligations.ConstructionChecksAndResets := by
  unfold Obligations.ConstructionChecksAndResets
  refine ⟨fun s h => if_neg (mt (Cfg.valid_iff _).mp h), fun c => ⟨fun h => ?_, fun h => ?_⟩⟩
  · exact State.construct_of_not_valid (mt (Cfg.valid_iff c).mp h)
  · exact ⟨State.fresh c, State.construct_of_valid ((Cfg.valid_iff c).mpr h), rfl, rfl, rfl, rfl, rfl, rfl, rfl, rfl, rfl,
      rfl⟩

/-- A block reset first in line is taken by the next step (70_reset R290). -/
theorem step_of_blockReset {s : State} {rest : List Request} (hv : s.cfg.valid = true) (hb : s.busy = false)
    (hp : s.pending = .blockReset :: rest) : step s = .next ({ s with pending := rest } : State).blockReset := by
  simp [step, hv, hb, State.portMove, hp]

/-- Settles O47: the step is the block reset, whose state is the fresh one with the requests and answers kept. -/
theorem blockResetClearsFault : Obligations.BlockResetClearsFault := by
  unfold Obligations.BlockResetClearsFault
  intro s rest hv hb hp
  exact ⟨_, step_of_blockReset hv hb hp, rfl, rfl, rfl, rfl, rfl, rfl, rfl, rfl, rfl, rfl, rfl, rfl, rfl, rfl, rfl, rfl, rfl⟩

theorem Coherent.fresh {c : Cfg} (h : c.valid = true) : Coherent (State.fresh c) :=
  .of_idle h rfl rfl rfl rfl FaultCode.noConfusion

theorem Cfg.profileGK_valid : Cfg.profileGK.valid = true := by decide

/-- Settles O54: a constructed block is the fresh one of a valid configuration, where each invariant holds. -/
theorem resetMeetsTheInvariants : Obligations.ResetMeetsTheInvariants := by
  unfold Obligations.ResetMeetsTheInvariants
  refine ⟨fun c s h => ?_, State.construct_of_valid Cfg.profileGK_valid, _, rfl, rfl, rfl⟩
  by_cases hv : c.valid = true
  · cases (State.construct_of_valid hv).symm.trans h
    exact ⟨.fresh hv, (inOrder_pinsInvariant.fresh hv).bracketed, (sendsLegal_pinsInvariant.fresh hv).onlyLegal⟩
  · cases (State.construct_of_not_valid hv).symm.trans h

end Sys2Proof.Machine
end
